-- ==== Sys2Proof/Word.lean ====
section
/-! DEFINITION. The word types of the machine: bytes, 16-bit words, the fields of an instruction word. -/

namespace Sys2Proof

/-- An 8-bit value: a V register, an RPL slot, a timer, a memory byte, an immediate KK (rules R21, R26, R31). -/
abbrev Byte := BitVec 8

/-- A 16-bit value: an instruction word, PC, SP, I, OPERAND (rules R23 to R25, R29, R90). -/
abbrev Word := BitVec 16

/-- A 4-bit count: the low nibble N of an instruction word (rules R91, R93). -/
abbrev Nibble := BitVec 4

/-- A 12-bit address field NNN (rules R91, R93). -/
abbrev Address := BitVec 12

/-- A register index 0 to 15, also the inclusive count of the block transfers (rules R21, R223). -/
abbrev Reg := Fin 16

/-- Register VF, the implicit carry, borrow and collision flag (rule R22). -/
abbrev VF : Reg := 15

end Sys2Proof
end

