-- ==== Sys2Proof/Syntax.lean ====
section
/-! DEFINITION. The instructions: one constructor per row of spec/opcode_table.json, in the table's order. The
fields are the ones the row reads; the bits a row ignores (rule R99) are no part of the instruction. -/

namespace Sys2Proof

/-- The 43 instructions of the catalogue (30_encoding.md rules R94 to R98). -/
inductive Instr where
  /-- `SCD n` (00Cn, rule R241): scroll the display down n rows. -/
  | scd (n : Nibble)
  /-- `CLS` (00E0, rule R242): clear the display. -/
  | cls
  /-- `RET` (00EE, rule R142): return from a subroutine. -/
  | ret
  /-- `SCR` (00FB, rule R243): scroll right 4 pixels. -/
  | scr
  /-- `SCL` (00FC, rule R244): scroll left 4 pixels. -/
  | scl
  /-- `LOW` (00FE, rule R246): Normal mode. -/
  | low
  /-- `HIGH` (00FF, rule R247): Extended mode. -/
  | high
  /-- `SYS nnn` (rest of group 0x0, rule R248): no operation. -/
  | sys (nnn : Address)
  /-- `JP nnn` (1nnn, rule R140). -/
  | jp (nnn : Address)
  /-- `CALL nnn` (2nnn, rule R141). -/
  | call (nnn : Address)
  /-- `SE Vx,kk` (3xkk, rule R143). -/
  | seVxKk (x : Reg) (kk : Byte)
  /-- `SNE Vx,kk` (4xkk, rule R144). -/
  | sneVxKk (x : Reg) (kk : Byte)
  /-- `SE Vx,Vy` (5xy-, rule R145). -/
  | seVxVy (x y : Reg)
  /-- `LD Vx,kk` (6xkk, rule R160). -/
  | ldVxKk (x : Reg) (kk : Byte)
  /-- `ADD Vx,kk` (7xkk, rule R161). -/
  | addVxKk (x : Reg) (kk : Byte)
  /-- `LD Vx,Vy` (8xy0, rule R162). -/
  | ldVxVy (x y : Reg)
  /-- `OR Vx,Vy` (8xy1, rule R163). -/
  | orVxVy (x y : Reg)
  /-- `AND Vx,Vy` (8xy2, rule R164). -/
  | andVxVy (x y : Reg)
  /-- `XOR Vx,Vy` (8xy3, rule R165). -/
  | xorVxVy (x y : Reg)
  /-- `ADD Vx,Vy` (8xy4, rule R166). -/
  | addVxVy (x y : Reg)
  /-- `SUB Vx,Vy` (8xy5, rule R167). -/
  | subVxVy (x y : Reg)
  /-- `SHR Vx` (8x-6, rule R168). -/
  | shrVx (x : Reg)
  /-- `SUBN Vx,Vy` (8xy7, rule R169). -/
  | subnVxVy (x y : Reg)
  /-- `SHL Vx` (8x-E, rule R170). -/
  | shlVx (x : Reg)
  /-- `SNE Vx,Vy` (9xy-, rule R146). -/
  | sneVxVy (x y : Reg)
  /-- `LD I,nnn` (Annn, rule R270). -/
  | ldINnn (nnn : Address)
  /-- `JP I,nnn` (Bnnn, rule R147). -/
  | jpINnn (nnn : Address)
  /-- `RND Vx,kk` (Cxkk, rule R271). -/
  | rndVxKk (x : Reg) (kk : Byte)
  /-- `DRW Vx,Vy,n` (Dxyn, rule R180). -/
  | drw (x y : Reg) (n : Nibble)
  /-- `SKP Vx` (Ex9E, rule R200). -/
  | skpVx (x : Reg)
  /-- `SKNP Vx` (ExA1, rule R201). -/
  | sknpVx (x : Reg)
  /-- `LD Vx,DT` (Fx07, rule R210). -/
  | ldVxDt (x : Reg)
  /-- `LD Vx,K` (Fx0A, rule R211). -/
  | ldVxK (x : Reg)
  /-- `LD DT,Vx` (Fx15, rule R213). -/
  | ldDtVx (x : Reg)
  /-- `LD ST,Vx` (Fx18, rule R214). -/
  | ldStVx (x : Reg)
  /-- `ADD I,Vx` (Fx1E, rule R215). -/
  | addIVx (x : Reg)
  /-- `LD F,Vx` (Fx29, rule R216). -/
  | ldFVx (x : Reg)
  /-- `LD HF,Vx` (Fx30, rule R217). -/
  | ldHfVx (x : Reg)
  /-- `LD B,Vx` (Fx33, rule R218). -/
  | ldBVx (x : Reg)
  /-- `LD [I],Vx` (Fx55, rule R219). -/
  | ldMemVx (x : Reg)
  /-- `LD Vx,[I]` (Fx65, rule R220). -/
  | ldVxMem (x : Reg)
  /-- `LD R,Vx` (Fx75, rule R221). -/
  | ldRVx (x : Reg)
  /-- `LD Vx,R` (Fx85, rule R222). -/
  | ldVxR (x : Reg)
deriving DecidableEq, Repr

end Sys2Proof
end

