-- ==== Sys2Proof/WellFormed.lean ====
section
/-! DEFINITION. Which terms of `Instr` are instructions. The field types already say what the widths of rule R91
say; the one check left is that of `SYS` (rules R101, R104). -/

namespace Sys2Proof

/-- Whether a low byte of group 0x0 selects one of the seven defined patterns of rule R95: 0xC0 to 0xCF (SCD),
0xE0, 0xEE, 0xFB, 0xFC, 0xFE, 0xFF. -/
def definedInGroup0 (kk : Byte) : Bool :=
  kk.extractLsb' 4 4 == 0xC#4 || kk == 0xE0#8 || kk == 0xEE#8 || kk == 0xFB#8 || kk == 0xFC#8 || kk == 0xFE#8
    || kk == 0xFF#8

/-- An instruction is well-formed when its fields are; `SYS nnn` stands for the words of the no-op space only, so
its address may not match a defined pattern of group 0x0 (rule R104: an assembler "must refuse it"). -/
def Instr.wellFormed : Instr → Bool
  | .sys nnn => !definedInGroup0 (nnn.extractLsb' 0 8)
  | .scd _ | .cls | .ret | .scr | .scl | .low | .high => true
  | .jp _ | .call _ | .seVxKk _ _ | .sneVxKk _ _ | .seVxVy _ _ | .sneVxVy _ _ | .jpINnn _ => true
  | .ldVxKk _ _ | .addVxKk _ _ | .ldVxVy _ _ | .orVxVy _ _ | .andVxVy _ _ | .xorVxVy _ _ | .addVxVy _ _ => true
  | .subVxVy _ _ | .shrVx _ | .subnVxVy _ _ | .shlVx _ => true
  | .ldINnn _ | .rndVxKk _ _ | .drw _ _ _ | .skpVx _ | .sknpVx _ => true
  | .ldVxDt _ | .ldVxK _ | .ldDtVx _ | .ldStVx _ | .addIVx _ | .ldFVx _ | .ldHfVx _ | .ldBVx _ => true
  | .ldMemVx _ | .ldVxMem _ | .ldRVx _ | .ldVxR _ => true

end Sys2Proof
end

