-- ==== Sys2Proof/Decode.lean ====
section
/-! DEFINITION. The decoder (30_encoding.md, 40_execute_dispatch.md rule R123): total on every 16-bit word,
refusing the illegal words by name; then the encoder, written from the same table. -/

namespace Sys2Proof

/-! ### The fields of an instruction word (rules R8, R91, R93) -/

/-- `top = op[15:12]`. -/
def fieldTop (op : Word) : Nibble := op.extractLsb' 12 4
/-- `X = op[11:8]`. -/
def fieldX (op : Word) : Reg := (op.extractLsb' 8 4).toFin
/-- `Y = op[7:4]`. -/
def fieldY (op : Word) : Reg := (op.extractLsb' 4 4).toFin
/-- `N = op[3:0]`. -/
def fieldN (op : Word) : Nibble := op.extractLsb' 0 4
/-- `KK = op[7:0]`. -/
def fieldKK (op : Word) : Byte := op.extractLsb' 0 8
/-- `NNN = op[11:0]`. -/
def fieldNNN (op : Word) : Address := op.extractLsb' 0 12

/-! ### Decoding -/

/-- Why a word is no instruction: dispatch finds no handler for it (rules R100, R124). -/
inductive DecodeError where
  /-- The word `op` is illegal. Taken by `Machine.dispatchWord`, which raises UnknownInstruction; safe, the spec's own. -/
  | unknownInstruction (op : Word)
deriving DecidableEq, Repr

/-- Group 0x0, sub-dispatch on the low byte, bits 11:8 ignored except in `SYS` (rules R95, R240). -/
def decodeGroup0 (op : Word) : Instr :=
  if (fieldKK op).extractLsb' 4 4 = 0xC#4 then .scd (fieldN op)
  else if fieldKK op = 0xE0#8 then .cls
  else if fieldKK op = 0xEE#8 then .ret
  else if fieldKK op = 0xFB#8 then .scr
  else if fieldKK op = 0xFC#8 then .scl
  else if fieldKK op = 0xFE#8 then .low
  else if fieldKK op = 0xFF#8 then .high
  else .sys (fieldNNN op)

/-- Group 0x8, keyed by the low nibble (rule R96). -/
def decodeGroup8 (op : Word) : Option Instr :=
  let x := fieldX op
  let y := fieldY op
  match (fieldN op).toNat with
  | 0x0 => some (.ldVxVy x y)
  | 0x1 => some (.orVxVy x y)
  | 0x2 => some (.andVxVy x y)
  | 0x3 => some (.xorVxVy x y)
  | 0x4 => some (.addVxVy x y)
  | 0x5 => some (.subVxVy x y)
  | 0x6 => some (.shrVx x)
  | 0x7 => some (.subnVxVy x y)
  | 0xE => some (.shlVx x)
  | _ => none

/-- Group 0xE, keyed by the low byte (rule R97). -/
def decodeGroupE (op : Word) : Option Instr :=
  let x := fieldX op
  if fieldKK op = 0x9E#8 then some (.skpVx x)
  else if fieldKK op = 0xA1#8 then some (.sknpVx x)
  else none

/-- Group 0xF, keyed by the low byte (rule R98). -/
def decodeGroupF (op : Word) : Option Instr :=
  let x := fieldX op
  if fieldKK op = 0x07#8 then some (.ldVxDt x)
  else if fieldKK op = 0x0A#8 then some (.ldVxK x)
  else if fieldKK op = 0x15#8 then some (.ldDtVx x)
  else if fieldKK op = 0x18#8 then some (.ldStVx x)
  else if fieldKK op = 0x1E#8 then some (.addIVx x)
  else if fieldKK op = 0x29#8 then some (.ldFVx x)
  else if fieldKK op = 0x30#8 then some (.ldHfVx x)
  else if fieldKK op = 0x33#8 then some (.ldBVx x)
  else if fieldKK op = 0x55#8 then some (.ldMemVx x)
  else if fieldKK op = 0x65#8 then some (.ldVxMem x)
  else if fieldKK op = 0x75#8 then some (.ldRVx x)
  else if fieldKK op = 0x85#8 then some (.ldVxR x)
  else none

/-- The top-level map, a direct mapping from the top nibble to one of 16 handlers (rules R94, R123); the last arm
is top nibble 0xF. -/
def handlerOf (op : Word) : Option Instr :=
  match (fieldTop op).toNat with
  | 0x0 => some (decodeGroup0 op)
  | 0x1 => some (.jp (fieldNNN op))
  | 0x2 => some (.call (fieldNNN op))
  | 0x3 => some (.seVxKk (fieldX op) (fieldKK op))
  | 0x4 => some (.sneVxKk (fieldX op) (fieldKK op))
  | 0x5 => some (.seVxVy (fieldX op) (fieldY op))
  | 0x6 => some (.ldVxKk (fieldX op) (fieldKK op))
  | 0x7 => some (.addVxKk (fieldX op) (fieldKK op))
  | 0x8 => decodeGroup8 op
  | 0x9 => some (.sneVxVy (fieldX op) (fieldY op))
  | 0xA => some (.ldINnn (fieldNNN op))
  | 0xB => some (.jpINnn (fieldNNN op))
  | 0xC => some (.rndVxKk (fieldX op) (fieldKK op))
  | 0xD => some (.drw (fieldX op) (fieldY op) (fieldN op))
  | 0xE => decodeGroupE op
  | _ => decodeGroupF op

/-- Decode a word: its instruction, or the name of what is wrong with it (rules R100, R102, R123). -/
def decode (op : Word) : Except DecodeError Instr :=
  match handlerOf op with
  | some i => .ok i
  | none => .error (.unknownInstruction op)

/-- The word stored in two consecutive bytes, high byte first (rules R62, R90). -/
def wordOfBytes (hi lo : Byte) : Word := hi ++ lo

/-- The high byte of a word: the one at the lower address of an instruction (rule R62). -/
def highByte (w : Word) : Byte := w.extractLsb' 8 8

/-- The low byte of a word. -/
def lowByte (w : Word) : Byte := w.extractLsb' 0 8

/-- Decode two bytes as memory holds them. -/
def decodeBytes (hi lo : Byte) : Except DecodeError Instr := decode (wordOfBytes hi lo)

/-- The table's word of `nbits` bits: every bit above them is 0. -/
def tableWord (nbits w : Nat) : Word := BitVec.ofNat 16 (w % 2 ^ nbits)

/-- What the decoder reads from the word `w` of the opcode table, laid out as the hardware stores it. -/
def decodeTableWord (nbits w : Nat) : Option Instr :=
  (decodeBytes (highByte (tableWord nbits w)) (lowByte (tableWord nbits w))).toOption

/-! ### Encoding (the formats of rule R92; an ignored field is 0, rule R99) -/

/-- Format A: top in bits 15:12, NNN in bits 11:0. -/
def formatA (top : Nat) (nnn : Address) : Word := BitVec.ofNat 16 (top * 2 ^ 12 + nnn.toNat)
/-- Formats I and K: top in bits 15:12, X in bits 11:8, the byte KK (an immediate or a key) in bits 7:0. -/
def formatI (top : Nat) (x : Reg) (kk : Byte) : Word := BitVec.ofNat 16 (top * 2 ^ 12 + x.val * 2 ^ 8 + kk.toNat)
/-- Formats R and D: top in bits 15:12, X in bits 11:8, Y in bits 7:4, the nibble N (a key or a count) in bits 3:0. -/
def formatR (top : Nat) (x y : Reg) (n : Nibble) : Word :=
  BitVec.ofNat 16 (top * 2 ^ 12 + x.val * 2 ^ 8 + y.val * 2 ^ 4 + n.toNat)
/-- Format Z: top nibble 0, bits 11:8 ignored, the byte KK in bits 7:0. -/
def formatZ (kk : Nat) : Word := BitVec.ofNat 16 kk

/-- The word an assembler emits for an instruction (30_encoding.md rules R92 to R99). -/
def encode : Instr → Word
  | .scd n => formatZ (0xC * 2 ^ 4 + n.toNat)
  | .cls => formatZ 0xE0
  | .ret => formatZ 0xEE
  | .scr => formatZ 0xFB
  | .scl => formatZ 0xFC
  | .low => formatZ 0xFE
  | .high => formatZ 0xFF
  | .sys nnn => formatA 0x0 nnn
  | .jp nnn => formatA 0x1 nnn
  | .call nnn => formatA 0x2 nnn
  | .seVxKk x kk => formatI 0x3 x kk
  | .sneVxKk x kk => formatI 0x4 x kk
  | .seVxVy x y => formatR 0x5 x y 0x0
  | .ldVxKk x kk => formatI 0x6 x kk
  | .addVxKk x kk => formatI 0x7 x kk
  | .ldVxVy x y => formatR 0x8 x y 0x0
  | .orVxVy x y => formatR 0x8 x y 0x1
  | .andVxVy x y => formatR 0x8 x y 0x2
  | .xorVxVy x y => formatR 0x8 x y 0x3
  | .addVxVy x y => formatR 0x8 x y 0x4
  | .subVxVy x y => formatR 0x8 x y 0x5
  | .shrVx x => formatR 0x8 x 0 0x6
  | .subnVxVy x y => formatR 0x8 x y 0x7
  | .shlVx x => formatR 0x8 x 0 0xE
  | .sneVxVy x y => formatR 0x9 x y 0x0
  | .ldINnn nnn => formatA 0xA nnn
  | .jpINnn nnn => formatA 0xB nnn
  | .rndVxKk x kk => formatI 0xC x kk
  | .drw x y n => formatR 0xD x y n
  | .skpVx x => formatI 0xE x 0x9E
  | .sknpVx x => formatI 0xE x 0xA1
  | .ldVxDt x => formatI 0xF x 0x07
  | .ldVxK x => formatI 0xF x 0x0A
  | .ldDtVx x => formatI 0xF x 0x15
  | .ldStVx x => formatI 0xF x 0x18
  | .addIVx x => formatI 0xF x 0x1E
  | .ldFVx x => formatI 0xF x 0x29
  | .ldHfVx x => formatI 0xF x 0x30
  | .ldBVx x => formatI 0xF x 0x33
  | .ldMemVx x => formatI 0xF x 0x55
  | .ldVxMem x => formatI 0xF x 0x65
  | .ldRVx x => formatI 0xF x 0x75
  | .ldVxR x => formatI 0xF x 0x85

/-- The bits of a word its instruction reads: all but the ignored bits of rule R99 (bits 11:8 in group 0x0 except
`SYS`, bits 3:0 in groups 5 and 9, the Y field in the two shifts). -/
def usedBits : Instr → Word
  | .scd _ | .cls | .ret | .scr | .scl | .low | .high => 0xF0FF
  | .seVxVy _ _ | .sneVxVy _ _ => 0xFFF0
  | .shrVx _ | .shlVx _ => 0xFF0F
  | .sys _ | .jp _ | .call _ | .seVxKk _ _ | .sneVxKk _ _ | .jpINnn _ => 0xFFFF
  | .ldVxKk _ _ | .addVxKk _ _ | .ldVxVy _ _ | .orVxVy _ _ | .andVxVy _ _ | .xorVxVy _ _ | .addVxVy _ _ => 0xFFFF
  | .subVxVy _ _ | .subnVxVy _ _ | .ldINnn _ | .rndVxKk _ _ | .drw _ _ _ | .skpVx _ | .sknpVx _ => 0xFFFF
  | .ldVxDt _ | .ldVxK _ | .ldDtVx _ | .ldStVx _ | .addIVx _ | .ldFVx _ | .ldHfVx _ | .ldBVx _ => 0xFFFF
  | .ldMemVx _ | .ldVxMem _ | .ldRVx _ | .ldVxR _ => 0xFFFF

end Sys2Proof
end

