-- ==== Sys2Proof/Config.lean ====
section
/-! DEFINITION. The parameters of rule R4 with the values the spec gives them, and the one value it leaves
free: the byte drawn by RND. -/

namespace Sys2Proof.Config

/-- MEM_SIZE: 4096 bytes, addresses 0x000 to 0xFFF (rules R4, R31). -/
abbrev memSize : Nat := 4096

/-- What MEM holds after reset at every address, and so what an unlisted address reads as (rules R31, R37; log 9). -/
abbrev unlistedByte : Byte := 0

/-- PC_RESET (rules R4, R37). -/
abbrev pcReset : Word := 0x0200

/-- SP_RESET, the stack base (rules R4, R37). -/
abbrev spReset : Word := 0x0052

/-- FONT_BASE: both glyph address formulas start at 0 (rule R4). -/
abbrev fontBase : Nat := 0

/-- SMALL_GLYPH_STRIDE (rules R4, R216). -/
abbrev smallGlyphStride : Nat := 5

/-- LARGE_GLYPH_STRIDE (rules R4, R217). -/
abbrev largeGlyphStride : Nat := 10

/-- SCROLL_H: the fixed distance of the left and right scroll, in pixels (rules R4, R245). -/
abbrev scrollDistance : Nat := 4

/-- RND_SOURCE, left OPEN by the spec (rules R4, R271): the n-th byte the environment supplies to `RND`. It has no
body, so nothing can be proved about a drawn byte; every claim holds whatever it is (log 4). -/
opaque draw8 : Nat → Byte

end Sys2Proof.Config
end

