-- ==== Sys2Proof/Machine/State.lean ====
section
/-! DEFINITION. The state of the machine (10_state.md), the events the environment drives it with, and the ways a
step can stop. Everything here is plain data. -/

namespace Sys2Proof.Machine

/-- MODE, the display resolution (rule R30); not a privilege mode (rule R290). -/
inductive Mode where
  | normal
  | extended
deriving DecidableEq, Repr

/-- The two faults of the hardware (rule R280). -/
inductive FaultKind where
  /-- The word has no handler; carries the instruction word. -/
  | unknownInstruction
  /-- An address outside 0 to 0xFFF; carries the first offending address. -/
  | addressOutOfRange
deriving DecidableEq, Repr

/-- RUN, the run state (rule R33). -/
inductive RunState where
  | running
  /-- Waiting for a KeyPress, whose index goes to register `x` (rules R211, R212). -/
  | awaitingKey (x : Reg)
  /-- A latched fault, left by Reset only (rules R283, R285). -/
  | faulted (kind : FaultKind) (info : Word)
deriving DecidableEq, Repr

/-- One event of the environment (00_scope.md section 6, rule R120). The last constructor is the model's own: it
sets the sampled key levels and is no event of the hardware (log 3). -/
inductive Event where
  | reset
  | load (offset : Nat) (bytes : List Byte)
  | execute
  | executeInjected (w : Word)
  | tick
  | keyPress (k : Fin 16)
  | keyLevels (levels : BitVec 16)
deriving DecidableEq, Repr

/-- What stands at the block's boundary and is no state of the hardware (rule R36): the environment's schedule and
input levels, and what the block has put out. The model's own fields (logs 1, 3 to 6). -/
structure Env where
  /-- The events to come, oldest first; when there is none the next event is Execute (log 1). -/
  events : List Event
  /-- `key_down(k)` is bit k (rule R202; log 3). -/
  keyDown : BitVec 16
  /-- How many `draw8()` bytes have been taken (rule R271; log 4). -/
  draws : Nat
  /-- Whether the launch phase is open: no Execute since the last Reset (rules R72, R313; log 6). -/
  launch : Bool
  /-- How many commit strobes the block has emitted (rule R189; log 5). -/
  commits : Nat
  /-- The `executed_operand` output of the latest event, if it was a completed Execute (rule R294; log 5). -/
  executed : Option Word
deriving DecidableEq, Repr

/-- Main memory: the bytes that differ from what an unlisted address reads as, by rising address (rule R31; log 9). -/
abbrev Memory := List Host.Cell

/-- One row of the pixel grid: bit x is column x from the left (rule R32; log 10). -/
abbrev Row := BitVec 128

/-- FB: 64 rows of 128 pixels, row 0 at the top (rule R32; log 10). -/
abbrev Grid := Vector Row 64

/-- The state of rule R20, and the block's boundary. -/
structure State where
  /-- V0 to VF (rules R21, R22). -/
  v : Vector Byte 16
  /-- The index register I (rule R23). -/
  i : Word
  /-- The stack pointer SP, the next free stack byte (rule R24). -/
  sp : Word
  /-- The program counter PC (rule R25). -/
  pc : Word
  /-- The delay timer DT (rule R26). -/
  dt : Byte
  /-- The sound timer ST (rule R27). -/
  st : Byte
  /-- The RPL store (rule R28). -/
  rpl : Vector Byte 16
  /-- OPERAND, the instruction word last dispatched (rule R29). -/
  operand : Word
  /-- MODE (rule R30). -/
  mode : Mode
  /-- MEM (rule R31). -/
  mem : Memory
  /-- FB (rule R32). -/
  fb : Grid
  /-- RUN (rule R33). -/
  run : RunState
  /-- The block's boundary; the model's own (rule R36). -/
  env : Env
deriving DecidableEq, Repr

/-- How a step can end without a next state: the event offered has no transition (rule R120). Both are safe: the
model stops and says nothing of what follows, and the hardware does not move either (log 2). -/
inductive Fault where
  /-- Raised by `execute` and `executeInjected`: an Execute is offered while the core awaits a key for register
  `x`; the core is held until a KeyPress or Reset. Safe. -/
  | heldAwaitingKey (x : Reg)
  /-- Raised by `execute` and `executeInjected`: an Execute is offered to a faulted core, which is stopped until
  Reset. Safe. -/
  | stoppedByFault (kind : FaultKind) (info : Word)
deriving DecidableEq, Repr

/-- What the model gives no meaning to. -/
inductive Refusal where
  /-- Raised by an arm of `exec` whose instruction has no meaning yet; no arm raises it. Safe. -/
  | notModelled (mnemonic : String)
  /-- Raised by `loadEvent`: the bytes would run past the end of memory; the event has no transition (rule R72). Safe. -/
  | loadPastEndOfMemory (offset length : Nat)
  /-- Raised by `loadEvent`: execution has begun and Load has no move (rule R72). Safe. -/
  | loadAfterLaunch
deriving DecidableEq, Repr

/-- The state after reset (rules R37, R310). `env` is the model's own: an empty schedule, no key down, nothing drawn
or put out, the launch phase open (logs 1, 3 to 6). -/
def State.reset : State where
  v := Vector.replicate 16 0
  i := 0
  sp := Config.spReset
  pc := Config.pcReset
  dt := 0
  st := 0
  rpl := Vector.replicate 16 0
  operand := 0
  mode := .normal
  mem := []
  fb := Vector.replicate 64 0
  run := .running
  env := { events := [], keyDown := 0, draws := 0, launch := true, commits := 0, executed := none }

end Sys2Proof.Machine
end

