-- ==== Sys2Proof/Machine/Ops.lean ====
section
/-! DEFINITION. The named operations over memory and registers, and taking a fault (20_memory.md, 60_exceptions.md).
Every meaning is written over these. -/

namespace Sys2Proof.Machine

/-! ### Memory (rules R31, R61; canonical form: log 9) -/

/-- The byte at an address; an unlisted address reads as reset left it (rule R67). -/
def Memory.read : Memory → Nat → Byte
  | [], _ => Config.unlistedByte
  | (b, x) :: rest, a => if a = b then x else Memory.read rest a

/-- Put one byte into the list, keeping it sorted and without entries equal to what an unlisted address reads as. -/
def Memory.insert (a : Nat) (x : Byte) : Memory → Memory
  | [] => if x = Config.unlistedByte then [] else [(a, x)]
  | (b, y) :: rest =>
    if a < b then (if x = Config.unlistedByte then (b, y) :: rest else (a, x) :: (b, y) :: rest)
    else if a = b then (if x = Config.unlistedByte then rest else (a, x) :: rest)
    else (b, y) :: Memory.insert a x rest

/-- Write one byte. Addresses past the end are tested before any write (rule R284), so the last case is never
reached from an instruction (log 12). -/
def Memory.write (m : Memory) (a : Nat) (x : Byte) : Memory :=
  if a < Config.memSize then Memory.insert a x m else m

/-- Write consecutive bytes upward from an address (rules R72, R219). -/
def Memory.writeAll (m : Memory) (a : Nat) : List Byte → Memory
  | [] => m
  | x :: rest => Memory.writeAll (Memory.write m a x) (a + 1) rest

/-- The canonical form from an address up: addresses strictly rising and inside memory, no entry equal to what an
unlisted address reads as. -/
def Memory.wfFrom : Nat → Memory → Bool
  | _, [] => true
  | lo, (a, x) :: rest =>
    decide (lo ≤ a) && decide (a < Config.memSize) && decide (x ≠ Config.unlistedByte) && Memory.wfFrom (a + 1) rest

/-- The canonical form of memory. -/
def Memory.wf (m : Memory) : Bool := Memory.wfFrom 0 m

/-- Whether `len` bytes from `base` all lie in 0 to 0xFFF; an empty range does (rules R61, R186). -/
def inMemory (base len : Nat) : Bool := len == 0 || decide (base + len ≤ Config.memSize)

/-- The first address of a range upward from `base` that lies outside memory, `max(base, 0x1000)` (rules R186, R218). -/
def firstOutside (base : Word) : Word := if base.toNat < Config.memSize then 0x1000 else base

/-- The byte at an address in this state. -/
def State.byteAt (s : State) (a : Nat) : Byte := Memory.read s.mem a

/-! ### Registers (rules R21 to R28) -/

/-- Read V[r]. -/
def State.reg (s : State) (r : Reg) : Byte := s.v.get r

/-- Write V[r]. -/
def State.setReg (s : State) (r : Reg) (x : Byte) : State := { s with v := s.v.set r.val x r.isLt }

/-- Write I. -/
def State.setI (s : State) (x : Word) : State := { s with i := x }

/-- Write SP. -/
def State.setSp (s : State) (x : Word) : State := { s with sp := x }

/-- Write PC. -/
def State.setPc (s : State) (x : Word) : State := { s with pc := x }

/-- Write DT. -/
def State.setDt (s : State) (x : Byte) : State := { s with dt := x }

/-- Write ST. -/
def State.setSt (s : State) (x : Byte) : State := { s with st := x }

/-- Write OPERAND. -/
def State.setOperand (s : State) (x : Word) : State := { s with operand := x }

/-- Write RUN. -/
def State.setRun (s : State) (x : RunState) : State := { s with run := x }

/-- Write MEM. -/
def State.setMem (s : State) (m : Memory) : State := { s with mem := m }

/-- Write FB. -/
def State.setFb (s : State) (g : Grid) : State := { s with fb := g }

/-- Write MODE. -/
def State.setMode (s : State) (m : Mode) : State := { s with mode := m }

/-- Write the whole V file. -/
def State.setV (s : State) (v : Vector Byte 16) : State := { s with v := v }

/-- Write the whole RPL store. -/
def State.setRpl (s : State) (v : Vector Byte 16) : State := { s with rpl := v }

/-- Replace the boundary. -/
def State.setEnv (s : State) (e : Env) : State := { s with env := e }

/-- A bank of 16 bytes whose slots 0 to `x` come from one source and the rest from another (rules R220 to R223: an
inclusive count). -/
def blockUpTo (x : Reg) (new old : Fin 16 → Byte) : Vector Byte 16 :=
  Vector.ofFn fun k => if k ≤ x then new k else old k

/-! ### Faults (rules R283, R285) -/

/-- The numeric code of a fault on the fault report output (rule R280). -/
def FaultKind.code : FaultKind → Nat
  | .unknownInstruction => 1
  | .addressOutOfRange => 2

/-- `raise F(info)`: RUN becomes Faulted(F, info) and nothing else changes; nothing is saved, PC is not redirected
(rule R283). -/
def State.raise (s : State) (kind : FaultKind) (info : Word) : State := { s with run := .faulted kind info }

/-- The only way out of Faulted: the Reset event gives every piece of state its reset value, whatever it was (rules
R285, R310). The environment's schedule, levels and counters are not state of the hardware and stay; the launch
phase opens again (log 6). -/
def resetEvent (s : State) : State :=
  { State.reset with env := { s.env with launch := true, executed := none } }

/-- The fault report output: shown while RUN is Faulted (rule R295). -/
def State.faultReport (s : State) : Option (Nat × Word) :=
  match s.run with
  | .faulted kind info => some (kind.code, info)
  | .running => none
  | .awaitingKey _ => none

/-- The first address outside memory that the access behind a latched AddressOutOfRange would have touched, always above
0xFFF (rules R280, R282, decision D3). It is the address the fault carries, but for a fetch at 0x0FFF: that fault
carries PC (rules R61, R121, R140), and the first byte outside is the second one, at 0x1000 (log 11). -/
def State.firstOffendingAddress (s : State) : Option Word :=
  match s.run with
  | .faulted .addressOutOfRange info => some (firstOutside info)
  | .faulted .unknownInstruction _ => none
  | .running => none
  | .awaitingKey _ => none

/-- The sound-timer status output (rule R296). -/
def State.soundStatus (s : State) : Byte := s.st

/-- Run `done` if the `len` bytes from `base` lie in memory; otherwise raise AddressOutOfRange with the first
offending address and change nothing (rules R61, R282, R284). -/
def State.ifInMemory (s : State) (base : Word) (len : Nat) (done : State) : State :=
  if inMemory base.toNat len then done else s.raise .addressOutOfRange (firstOutside base)

/-! ### Fetch (rules R61, R62, R121) -/

/-- `MemRead(PC, 2)`: the two bytes at PC, high byte first; none when PC + 1 is past the end of memory. -/
def State.fetchWord (s : State) : Option Word :=
  if inMemory s.pc.toNat 2 then some (s.byteAt s.pc.toNat ++ s.byteAt (s.pc.toNat + 1)) else none

end Sys2Proof.Machine
end

