-- ==== Sys2Proof/Machine/Flags.lean ====
section
/-! DEFINITION. The flag computations of group 0x8 and the order in which a result and its flag are written
(42_alu.md rules R166 to R172). A flag is 0 or 1 and lives in VF (rule R22). -/

namespace Sys2Proof.Machine

/-- A flag value: 1 or 0. -/
def flagOf (b : Bool) : Byte := if b then 1 else 0

/-- The carry out of bit 7: 1 when the exact sum exceeds 255 (rule R166). -/
def carryFlag (a b : Byte) : Byte := flagOf (decide (a.toNat + b.toNat > 255))

/-- Not-borrow of `a - b`: 1 when a ≥ b (rules R167, R169). -/
def notBorrowFlag (a b : Byte) : Byte := flagOf (decide (b.toNat ≤ a.toNat))

/-- The bit shifted out to the right: the old bit 0 (rule R168). -/
def shiftedOutRight (a : Byte) : Byte := flagOf (a.getLsbD 0)

/-- The bit shifted out to the left: the old bit 7 (rule R170). -/
def shiftedOutLeft (a : Byte) : Byte := flagOf (a.getLsbD 7)

/-- Write the primary result to V[x], then the flag to VF: with x = 15 the flag overwrites the result (rule R172). -/
def State.setRegThenFlag (s : State) (x : Reg) (result flag : Byte) : State := (s.setReg x result).setReg VF flag

end Sys2Proof.Machine
end

