-- ==== Sys2Proof/Machine/Operands.lean ====
section
/-! DEFINITION. The operand forms: address fields, glyph addresses, the key index, decimal digits, the skip, and
the geometry a mode selects. -/

namespace Sys2Proof.Machine

/-- `zext_16(NNN)` (rule R93). -/
def zextAddress (nnn : Address) : Word := nnn.zeroExtend 16

/-- `zext_16` of a byte (rule R215). -/
def zextByte (b : Byte) : Word := b.zeroExtend 16

/-- The address of the small glyph for the whole value of Vx (rule R216). -/
def smallGlyph (b : Byte) : Word := BitVec.ofNat 16 (Config.fontBase + b.toNat * Config.smallGlyphStride)

/-- The address of the large glyph for the whole value of Vx (rule R217). -/
def largeGlyph (b : Byte) : Word := BitVec.ofNat 16 (Config.fontBase + b.toNat * Config.largeGlyphStride)

/-- The key a register selects: its low four bits (rule R202). -/
def keyIndex (b : Byte) : Fin 16 := (b.extractLsb' 0 4).toFin

/-- `key_down(k)`, sampled now (rule R202). -/
def State.keyIsDown (s : State) (k : Fin 16) : Bool := s.env.keyDown.getLsbD k.val

/-- The decimal digits of a byte, hundreds first (rules R64, R218). -/
def decimalDigits (b : Byte) : List Byte :=
  [BitVec.ofNat 8 (b.toNat / 100), BitVec.ofNat 8 (b.toNat / 10 % 10), BitVec.ofNat 8 (b.toNat % 10)]

/-- V0 to Vx in order, an inclusive count (rule R223). -/
def State.regsUpTo (s : State) (x : Reg) : List Byte := s.v.toList.take (x.val + 1)

/-- Skip the next instruction when the condition holds: PC advances by 2 more (rules R143 to R146, R148). -/
def State.skipIf (s : State) (c : Bool) : State := if c then s.setPc (s.pc + 2) else s

/-- W, the active width in pixels (rules R4, R30). -/
def Mode.width : Mode → Nat
  | .normal => 64
  | .extended => 128

/-- H, the active height in pixels (rules R4, R30). -/
def Mode.height : Mode → Nat
  | .normal => 32
  | .extended => 64

/-- Whether `DRW` takes the 16×16 path (rule R181). -/
def bigSprite (m : Mode) (n : Nibble) : Bool := m == .extended && n == 0

/-- How many rows the sprite has (rules R180, R181). -/
def spriteRows (m : Mode) (n : Nibble) : Nat := if bigSprite m n then 16 else n.toNat

/-- How many bytes a sprite row has (rules R180, R183). -/
def bytesPerRow (m : Mode) (n : Nibble) : Nat := if bigSprite m n then 2 else 1

end Sys2Proof.Machine
end

