-- ==== Sys2Proof/Machine/Display.lean ====
section
/-! DEFINITION. The pixel grid: the primitives of 20_memory.md rule R74 and the Display operations of
46_mode_screen.md rules R245 and R249. Bit x of row y is FB[x][y] (log 10). -/

namespace Sys2Proof.Machine

/-- FB[x][y]; a coordinate outside the stored grid, which no caller forms, reads dark (rules R32, R74; log 12). -/
def Grid.get (g : Grid) (x y : Nat) : Bool := if h : y < 64 then (g[y]'h).getLsbD x else false

/-- A row with pixel x set to b. -/
def setPixel (row : Row) (x : Nat) (b : Bool) : Row :=
  if b then row ||| BitVec.twoPow 128 x else row &&& ~~~BitVec.twoPow 128 x

/-- FB[x][y] <- b (rule R74). -/
def Grid.set (g : Grid) (x y : Nat) (b : Bool) : Grid := if h : y < 64 then Vector.set g y (setPixel (g[y]'h) x b) h else g

/-- The columns of the active window, as a row (rule R30). -/
def windowColumns : Mode → Row
  | .normal => BitVec.ofNat 128 (2 ^ 64 - 1)
  | .extended => BitVec.allOnes 128

/-- Rewrite the active window row by row; pixels outside it keep their value (rule R34: "write only inside the
window"). -/
def Grid.inWindow (m : Mode) (g : Grid) (new : Nat → Row) : Grid :=
  Vector.ofFn fun y : Fin 64 =>
    if y.val < m.height then (new y.val &&& windowColumns m) ||| (g[y] &&& ~~~windowColumns m) else g[y]

/-- Row y of the grid, dark outside it. -/
def Grid.row (g : Grid) (y : Nat) : Row := if h : y < 64 then g[y]'h else 0

/-- `clear()` (rule R245). -/
def Grid.clear (m : Mode) (g : Grid) : Grid := g.inWindow m fun _ => 0

/-- `scroll_down(n)`: row y takes row y − n, the top n rows become dark, the bottom n are lost (rule R245). -/
def Grid.scrollDown (m : Mode) (n : Nat) (g : Grid) : Grid :=
  g.inWindow m fun y => if y < n then 0 else g.row (y - n)

/-- `scroll_right()`: column x takes column x − 4, the left 4 become dark (rule R245). -/
def Grid.scrollRight (m : Mode) (g : Grid) : Grid := g.inWindow m fun y => g.row y <<< Config.scrollDistance

/-- `scroll_left()`: column x takes column x + 4 of the window, the right 4 become dark (rule R245). -/
def Grid.scrollLeft (m : Mode) (g : Grid) : Grid :=
  g.inWindow m fun y => (g.row y &&& windowColumns m) >>> Config.scrollDistance

/-- `set_mode(m)`: MODE <- m and the whole stored grid becomes dark, also when the mode does not change (rule R249). -/
def State.setDisplayMode (s : State) (m : Mode) : State := (s.setMode m).setFb (Vector.replicate 64 0)

/-- One pixel of a sprite: where it lands and its bit. -/
structure SpritePixel where
  x : Nat
  y : Nat
  lit : Bool
deriving DecidableEq, Repr

/-- The pixels of the sprite at `base`, in the order of the loops of rule R180: row by row, byte by byte, most
significant bit leftmost, each coordinate reduced on its own (rules R182, R183). -/
def spritePixels (m : Mode) (mem : Memory) (base x0 y0 rows bpr : Nat) : List SpritePixel :=
  (List.range rows).flatMap fun r =>
    (List.range bpr).flatMap fun b =>
      (List.range 8).map fun c =>
        { x := (x0 + 8 * b + c) % m.width
          y := (y0 + r) % m.height
          lit := (Memory.read mem (base + r * bpr + b)).getLsbD (7 - c) }

/-- The per-pixel rule: exclusive OR, and a collision when both bits are set (rule R184). The pair is the grid and
whether a collision has happened so far. -/
def xorPixel (acc : Grid × Bool) (p : SpritePixel) : Grid × Bool :=
  let old := acc.1.get p.x p.y
  (acc.1.set p.x p.y (xor old p.lit), acc.2 || (p.lit && old))

/-- Draw the pixels in order, from no collision (rule R185). -/
def Grid.draw (g : Grid) (pixels : List SpritePixel) : Grid × Bool := pixels.foldl xorPixel (g, false)

/-- `emit commit`: one occurrence of the commit strobe (rule R189). -/
def State.emitCommit (s : State) : State := { s with env := { s.env with commits := s.env.commits + 1 } }

end Sys2Proof.Machine
end

