-- ==== Sys2Proof/Machine/Blitter.lean ====
section
/-! DEFINITION. The sprite blitter, `DRW` (43_sprite_blitter.md). -/

namespace Sys2Proof.Machine

/-- The pixels `DRW Vx,Vy,n` draws in this state (rules R180 to R183); the coordinates are read here, before VF is
cleared (rule R185). -/
def State.drawnPixels (s : State) (x y : Reg) (n : Nibble) : List SpritePixel :=
  spritePixels s.mode s.mem s.i.toNat (s.reg x).toNat (s.reg y).toNat (spriteRows s.mode n) (bytesPerRow s.mode n)

/-- How many bytes the sprite has (rule R186). -/
def State.spriteBytes (s : State) (n : Nibble) : Nat := spriteRows s.mode n * bytesPerRow s.mode n

/-- Draw, write the collision flag to VF and emit one commit (rules R184, R185, R189). -/
def State.drawSprite (s : State) (x y : Reg) (n : Nibble) : State :=
  let drawn := s.fb.draw (s.drawnPixels x y n)
  ((s.setFb drawn.1).setReg VF (flagOf drawn.2)).emitCommit

/-- `DRW Vx,Vy,n`: the sprite bytes are checked before anything changes (rule R186). -/
def execDrw (x y : Reg) (n : Nibble) (s : State) : Host.Outcome State Fault Refusal :=
  .next (s.ifInMemory s.i (s.spriteBytes n) (s.drawSprite x y n))

end Sys2Proof.Machine
end

