-- ==== Sys2Proof/Machine/ControlFlow.lean ====
section
/-! DEFINITION. The control flow group (41_control_flow.md). PC is the value dispatch finds: on the fetch path
the address of the next instruction (rule R125). -/

namespace Sys2Proof.Machine

/-- `JP nnn` (rule R140). -/
def execJp (nnn : Address) (s : State) : Host.Outcome State Fault Refusal := .next (s.setPc (zextAddress nnn))

/-- Push a return address: low byte at SP, high byte at SP + 1, SP advanced by 2 (rules R63, R141). -/
def State.push (s : State) (w : Word) : State :=
  (s.setMem (Memory.writeAll s.mem s.sp.toNat [w.extractLsb' 0 8, w.extractLsb' 8 8])).setSp (s.sp + 2)

/-- `CALL nnn` (rule R141). -/
def execCall (nnn : Address) (s : State) : Host.Outcome State Fault Refusal :=
  .next (s.ifInMemory s.sp 2 ((s.push s.pc).setPc (zextAddress nnn)))

/-- The address a return address cannot be read from, if there is one: SP − 1 is read first, then SP − 2, each as a
16-bit value (rule R142). -/
def popFault (sp : Word) : Option Word :=
  if sp.toNat < 1 ∨ sp.toNat - 1 > 0xFFF then some (sp - 1)
  else if sp.toNat < 2 then some (sp - 2)
  else none

/-- `RET`: the high byte from SP − 1, the low byte from SP − 2, SP moved down by 2 (rule R142). -/
def execRet (s : State) : Host.Outcome State Fault Refusal :=
  match popFault s.sp with
  | some a => .next (s.raise .addressOutOfRange a)
  | none => .next ((s.setSp (s.sp - 2)).setPc (s.byteAt (s.sp.toNat - 1) ++ s.byteAt (s.sp.toNat - 2)))

/-- `JP I,nnn`: the base is I (rule R147). -/
def execJpINnn (nnn : Address) (s : State) : Host.Outcome State Fault Refusal :=
  .next (s.setPc (s.i + zextAddress nnn))

/-- `SE Vx,kk` (rule R143). -/
def execSeVxKk (x : Reg) (kk : Byte) (s : State) : Host.Outcome State Fault Refusal := .next (s.skipIf (s.reg x == kk))

/-- `SNE Vx,kk` (rule R144). -/
def execSneVxKk (x : Reg) (kk : Byte) (s : State) : Host.Outcome State Fault Refusal := .next (s.skipIf (s.reg x != kk))

/-- `SE Vx,Vy` (rule R145). -/
def execSeVxVy (x y : Reg) (s : State) : Host.Outcome State Fault Refusal := .next (s.skipIf (s.reg x == s.reg y))

/-- `SNE Vx,Vy` (rule R146). -/
def execSneVxVy (x y : Reg) (s : State) : Host.Outcome State Fault Refusal := .next (s.skipIf (s.reg x != s.reg y))

end Sys2Proof.Machine
end

