-- ==== Sys2Proof/Machine/GroupsAC.lean ====
section
/-! DEFINITION. Groups 0xA and 0xC (48_groups_A_C.md). -/

namespace Sys2Proof.Machine

/-- `LD I,nnn` (rule R270). -/
def execLdINnn (nnn : Address) (s : State) : Host.Outcome State Fault Refusal := .next (s.setI (zextAddress nnn))

/-- `draw8()`: the next free byte (rule R271; log 4). -/
def State.nextDraw (s : State) : Byte := Config.draw8 s.env.draws

/-- Count one drawn byte as taken (log 4). -/
def State.takeDraw (s : State) : State := { s with env := { s.env with draws := s.env.draws + 1 } }

/-- `RND Vx,kk`: a fresh free byte AND the mask (rule R271). -/
def execRndVxKk (x : Reg) (kk : Byte) (s : State) : Host.Outcome State Fault Refusal :=
  .next (s.takeDraw.setReg x (s.nextDraw &&& kk))

end Sys2Proof.Machine
end

