-- ==== Sys2Proof/Machine/Keypad.lean ====
section
/-! DEFINITION. The keypad skip group (44_keypad.md). -/

namespace Sys2Proof.Machine

/-- `SKP Vx` (rule R200). -/
def execSkpVx (x : Reg) (s : State) : Host.Outcome State Fault Refusal :=
  .next (s.skipIf (s.keyIsDown (keyIndex (s.reg x))))

/-- `SKNP Vx` (rule R201). -/
def execSknpVx (x : Reg) (s : State) : Host.Outcome State Fault Refusal :=
  .next (s.skipIf (!s.keyIsDown (keyIndex (s.reg x))))

end Sys2Proof.Machine
end

