-- ==== Sys2Proof/Machine/Misc.lean ====
section
/-! DEFINITION. The miscellaneous and memory-transfer group (45_misc_memory_transfer.md). -/

namespace Sys2Proof.Machine

/-- `LD Vx,DT` (rule R210). -/
def execLdVxDt (x : Reg) (s : State) : Host.Outcome State Fault Refusal := .next (s.setReg x s.dt)

/-- `LD Vx,K`: enter the key wait; the register is written by the KeyPress event (rules R211, R212). -/
def execLdVxK (x : Reg) (s : State) : Host.Outcome State Fault Refusal := .next (s.setRun (.awaitingKey x))

/-- `LD DT,Vx` (rule R213). -/
def execLdDtVx (x : Reg) (s : State) : Host.Outcome State Fault Refusal := .next (s.setDt (s.reg x))

/-- `LD ST,Vx` (rule R214). -/
def execLdStVx (x : Reg) (s : State) : Host.Outcome State Fault Refusal := .next (s.setSt (s.reg x))

/-- `ADD I,Vx`: modulo 65536, no flag (rule R215). -/
def execAddIVx (x : Reg) (s : State) : Host.Outcome State Fault Refusal := .next (s.setI (s.i + zextByte (s.reg x)))

/-- `LD F,Vx` (rule R216). -/
def execLdFVx (x : Reg) (s : State) : Host.Outcome State Fault Refusal := .next (s.setI (smallGlyph (s.reg x)))

/-- `LD HF,Vx` (rule R217). -/
def execLdHfVx (x : Reg) (s : State) : Host.Outcome State Fault Refusal := .next (s.setI (largeGlyph (s.reg x)))

/-- `LD B,Vx`: three digits at I, I + 1, I + 2 (rule R218). -/
def execLdBVx (x : Reg) (s : State) : Host.Outcome State Fault Refusal :=
  .next (s.ifInMemory s.i 3 (s.setMem (Memory.writeAll s.mem s.i.toNat (decimalDigits (s.reg x)))))

/-- `LD [I],Vx`: V0 to Vx into memory from I; I is unchanged (rule R219). -/
def execLdMemVx (x : Reg) (s : State) : Host.Outcome State Fault Refusal :=
  .next (s.ifInMemory s.i (x.val + 1) (s.setMem (Memory.writeAll s.mem s.i.toNat (s.regsUpTo x))))

/-- `LD Vx,[I]`: V0 to Vx from memory at I; I is unchanged (rule R220). -/
def execLdVxMem (x : Reg) (s : State) : Host.Outcome State Fault Refusal :=
  .next (s.ifInMemory s.i (x.val + 1) (s.setV (blockUpTo x (fun k => s.byteAt (s.i.toNat + k.val)) s.reg)))

/-- `LD R,Vx`: V0 to Vx into the RPL store (rule R221). -/
def execLdRVx (x : Reg) (s : State) : Host.Outcome State Fault Refusal :=
  .next (s.setRpl (blockUpTo x s.reg s.rpl.get))

/-- `LD Vx,R`: V0 to Vx from the RPL store (rule R222). -/
def execLdVxR (x : Reg) (s : State) : Host.Outcome State Fault Refusal :=
  .next (s.setV (blockUpTo x s.rpl.get s.reg))

end Sys2Proof.Machine
end

