-- ==== Sys2Proof/Machine/Screen.lean ====
section
/-! DEFINITION. The mode and screen-control group (46_mode_screen.md). None of these emits a commit (rule R250). -/

namespace Sys2Proof.Machine

/-- `SCD n` (rule R241). -/
def execScd (n : Nibble) (s : State) : Host.Outcome State Fault Refusal :=
  .next (s.setFb (s.fb.scrollDown s.mode n.toNat))

/-- `CLS` (rule R242). -/
def execCls (s : State) : Host.Outcome State Fault Refusal := .next (s.setFb (s.fb.clear s.mode))

/-- `SCR` (rule R243). -/
def execScr (s : State) : Host.Outcome State Fault Refusal := .next (s.setFb (s.fb.scrollRight s.mode))

/-- `SCL` (rule R244). -/
def execScl (s : State) : Host.Outcome State Fault Refusal := .next (s.setFb (s.fb.scrollLeft s.mode))

/-- `LOW` (rule R246). -/
def execLow (s : State) : Host.Outcome State Fault Refusal := .next (s.setDisplayMode .normal)

/-- `HIGH` (rule R247). -/
def execHigh (s : State) : Host.Outcome State Fault Refusal := .next (s.setDisplayMode .extended)

/-- `SYS nnn`: no operation; the address is ignored (rule R248). -/
def execSys (_nnn : Address) (s : State) : Host.Outcome State Fault Refusal := .next s

end Sys2Proof.Machine
end

