-- ==== Sys2Proof/Machine/Execute.lean ====
section
/-! DEFINITION. The events (40_execute_dispatch.md rules R120 to R124, 47_timer_tick.md, rules R212, R72, R310): what
each does in each run state. An event with no transition ends the step by name (log 2). -/

namespace Sys2Proof.Machine

/-- Apply a change to the next state of an outcome. -/
def onNext (f : State → State) : Host.Outcome State Fault Refusal → Host.Outcome State Fault Refusal
  | .next s => .next (f s)
  | .fault r => .fault r
  | .refused r => .refused r

/-- A completed Execute outputs the word it executed; one that faults shows the fault report instead (rules R294,
R295). Entering the key wait completes the event (rule R211). -/
def State.reportExecuted (w : Word) (s : State) : State :=
  match s.run with
  | .faulted _ _ => s
  | .running => { s with env := { s.env with executed := some w } }
  | .awaitingKey _ => { s with env := { s.env with executed := some w } }

/-- `Dispatch(w)`: an illegal word raises UnknownInstruction before anything else changes (rules R123, R124). -/
def dispatchWord (w : Word) (s : State) : Host.Outcome State Fault Refusal :=
  match decode w with
  | .ok i => onNext (State.reportExecuted w) (exec i s)
  | .error (.unknownInstruction op) => .next (s.raise .unknownInstruction op)

/-- The launch phase ends at the first Execute or ExecuteInjected (rule R72; log 6). -/
def State.endLaunch (s : State) : State := { s with env := { s.env with launch := false } }

/-- The state dispatch finds on the fetch path: OPERAND holds the word and PC is past it (rules R121, R125). -/
def State.fetched (s : State) (w : Word) : State := (s.endLaunch.setOperand w).setPc (s.pc + 2)

/-- The Execute event (rule R121). -/
def execute (s : State) : Host.Outcome State Fault Refusal :=
  match s.run with
  | .running =>
    match s.fetchWord with
    | some w => dispatchWord w (s.fetched w)
    | none => .next (s.endLaunch.raise .addressOutOfRange s.pc)
  | .awaitingKey x => .fault (.heldAwaitingKey x)
  | .faulted kind info => .fault (.stoppedByFault kind info)

/-- The ExecuteInjected event: no fetch, PC not advanced (rule R122). -/
def executeInjected (w : Word) (s : State) : Host.Outcome State Fault Refusal :=
  match s.run with
  | .running => dispatchWord w (s.endLaunch.setOperand w)
  | .awaitingKey x => .fault (.heldAwaitingKey x)
  | .faulted kind info => .fault (.stoppedByFault kind info)

/-- Decrement a timer, clamped at 0 (rule R260). -/
def countDown (t : Byte) : Byte := if t = 0 then 0 else t - 1

/-- The Tick event: lost unless Running (rules R260, R261). -/
def tickEvent (s : State) : State :=
  match s.run with
  | .running => (s.setDt (countDown s.dt)).setSt (countDown s.st)
  | .awaitingKey _ => s
  | .faulted _ _ => s

/-- The KeyPress event: it completes a key wait and is dropped otherwise (rules R120, R212). -/
def keyPressEvent (k : Fin 16) (s : State) : State :=
  match s.run with
  | .awaitingKey x => (s.setReg x (BitVec.ofNat 8 k.val)).setRun .running
  | .running => s
  | .faulted _ _ => s

/-- The Load event: in the launch phase only, and refused past the end of memory (rule R72). -/
def loadEvent (offset : Nat) (bytes : List Byte) (s : State) : Host.Outcome State Fault Refusal :=
  if !s.env.launch then .refused .loadAfterLaunch
  else if offset + bytes.length > Config.memSize then .refused (.loadPastEndOfMemory offset bytes.length)
  else .next (s.setMem (Memory.writeAll s.mem offset bytes))

/-- Set the sampled key levels: the model's own event (log 3). -/
def keyLevelsEvent (levels : BitVec 16) (s : State) : State := { s with env := { s.env with keyDown := levels } }

/-- One event (rule R120's table). -/
def runEvent (e : Event) (s : State) : Host.Outcome State Fault Refusal :=
  match e with
  | .reset => .next (resetEvent s)
  | .load offset bytes => loadEvent offset bytes s
  | .execute => execute s
  | .executeInjected w => executeInjected w s
  | .tick => .next (tickEvent s)
  | .keyPress k => .next (keyPressEvent k s)
  | .keyLevels levels => .next (keyLevelsEvent levels s)

/-- The event the environment offers next: the oldest of its schedule, or Execute when it has none (log 1). -/
def State.currentEvent (s : State) : Event := s.env.events.headD .execute

/-- The state at the start of the current event: it leaves the schedule, and the output of the event before it is
gone (logs 1, 5). -/
def State.beginEvent (s : State) : State := { s with env := { s.env with events := s.env.events.tail, executed := none } }

/-- Schedule an Execute before whatever the environment has planned; an empty schedule is one already (log 1). -/
def executeFirst : List Event → List Event
  | [] => []
  | e :: rest => .execute :: e :: rest

/-- Where an instruction can be placed so that the next Execute fetches it: PC, or the reset PC when no word fits at
PC (log 7). -/
def placeablePc (pc : Word) : Word := if inMemory pc.toNat 2 then pc else Config.pcReset

/-- `s` with a word stored where the next step fetches it, high byte first, and that step made an Execute of a
running core (log 7). -/
def State.placeWord (s : State) (w : Word) : State :=
  { s with
    pc := placeablePc s.pc
    mem := Memory.writeAll s.mem (placeablePc s.pc).toNat [highByte w, lowByte w]
    run := .running
    env := { s.env with events := executeFirst s.env.events } }

end Sys2Proof.Machine
end

