-- ==== Sys2Proof/Machine/Step.lean ====
section
/-! DEFINITION. One step: one event of the environment, one atomic transition (rule R127). -/

namespace Sys2Proof.Machine

/-- One step: the event the environment offers next is taken (rules R120, R127; log 1). -/
def step (s : State) : Host.Outcome State Fault Refusal := runEvent s.currentEvent s.beginEvent

/-- `s` with the table's word `w` of `nbits` bits placed so that the very next step fetches and runs it (log 7). -/
def State.withFetchWord (s : State) (nbits w : Nat) : State := s.placeWord (tableWord nbits w)

end Sys2Proof.Machine
end

