-- ==== Sys2Proof/Safety.lean ====
section
/-! DEFINITION. What counts as a safe run, and the invariant of the machine, in the terms the claims use. -/

namespace Sys2Proof.Machine

/-- The core has not faulted (rule D4 of 92_eei_decisions.md: "a Faulted state is never an acceptable end state"). -/
def State.healthy (s : State) : Bool :=
  match s.run with
  | .running => true
  | .awaitingKey _ => true
  | .faulted _ _ => false

/-- A run of `k` steps from `s` is safe when every step of it has a next state and none of them is faulted. -/
def SafeRun (k : Nat) (s : State) : Prop :=
  ∀ j, j ≤ k → ∃ t, Host.Core.run Sys2Proof.core j s = .next t ∧ t.healthy = true

/-- What every reachable state satisfies and every step keeps. -/
structure Inv (s : State) : Prop where
  /-- Memory keeps its canonical form (log 9). -/
  memory_canonical : Memory.wf s.mem = true
  /-- Pixels outside the active window are dark (rule R34). -/
  outside_window_dark : ∀ x y, (s.mode.width ≤ x ∨ s.mode.height ≤ y) → Grid.get s.fb x y = false
  /-- SP is even (rules R24, R35). -/
  sp_even : s.sp.toNat % 2 = 0
  /-- A latched UnknownInstruction carries the illegal word, which OPERAND still holds (rules R281, R284). -/
  unknown_info : ∀ op, s.run = .faulted .unknownInstruction op →
    op = s.operand ∧ decode op = .error (.unknownInstruction op)
  /-- A latched AddressOutOfRange carries an address outside memory; only a fetch at 0x0FFF, whose second byte is
  outside, reports an address inside (rules R61, R280; log 11). -/
  address_info : ∀ a, s.run = .faulted .addressOutOfRange a → 0x1000 ≤ a.toNat ∨ (a = 0x0FFF ∧ s.pc = 0x0FFF)

end Sys2Proof.Machine
end

