-- ==== Sys2Proof/Certificates/Slice0/Obligations.lean ====
section
/-! DEFINITION. The statements for the provers: what the rules of spec/ say the machine does, instruction by
instruction with the frame of each, then the rules about the whole machine. -/

namespace Sys2Proof.Claims

open Sys2Proof.Machine

/-! ### Words the statements use -/

/-- Every byte of memory reads in `t` as it read in `s`. -/
def SameBytes (s t : State) : Prop := ∀ a, t.byteAt a = s.byteAt a

/-- `t` differs from `s` in V registers only; every byte of memory is unchanged. -/
def OnlyV (s t : State) : Prop := t = { s with v := t.v } ∧ SameBytes s t

/-- `o` is a next state in which V[x] holds `b` and nothing else has changed. -/
def WritesReg (o : Host.Outcome State Fault Refusal) (s : State) (x : Reg) (b : Byte) : Prop :=
  ∃ t, o = .next t ∧ t.reg x = b ∧ (∀ r, r ≠ x → t.reg r = s.reg r) ∧ OnlyV s t

/-- `o` is a next state in which VF holds `flag`, V[x] holds `result` unless x is VF, and nothing else has changed. -/
def WritesRegAndFlag (o : Host.Outcome State Fault Refusal) (s : State) (x : Reg) (result flag : Byte) : Prop :=
  ∃ t, o = .next t ∧ t.reg VF = flag ∧ (x ≠ VF → t.reg x = result) ∧
    (∀ r, r ≠ x → r ≠ VF → t.reg r = s.reg r) ∧ OnlyV s t

/-- The number `w`, as an instruction word, decodes to `i`. -/
def WordIs (w : Nat) (i : Instr) : Prop := decode (BitVec.ofNat 16 w) = .ok i

/-- The event the environment offers next is `e`: it heads the schedule, or the schedule is empty and it is Execute. -/
def NextEventIs (s : State) (e : Event) : Prop :=
  s.env.events.head? = some e ∨ (s.env.events = [] ∧ e = .execute)

/-- The boundary once the event in hand has left the schedule and the last output is gone. -/
def envAfter (s : State) : Env := { s.env with events := s.env.events.tail, executed := none }

/-- The same once an Execute or ExecuteInjected has begun: the launch phase is over. -/
def envAfterExecute (s : State) : Env := { envAfter s with launch := false }

/-- The word at PC: the byte at PC in bits 15:8, the byte at PC + 1 in bits 7:0. -/
def wordAtPc (s : State) : Word := BitVec.ofNat 16 ((s.byteAt s.pc.toNat).toNat * 256 + (s.byteAt (s.pc.toNat + 1)).toNat)

/-- The state dispatch finds on the fetch path. -/
def foundAfterFetch (s : State) : State :=
  { s with operand := wordAtPc s, pc := s.pc + 2, env := envAfterExecute s }

/-- The state dispatch finds on the injected path: PC is not advanced. -/
def foundAfterInjection (s : State) (w : Word) : State := { s with operand := w, env := envAfterExecute s }

/-- `o` is what an Execute of the word `w` answers once its instruction has answered `r`: a next state that has not
faulted puts out the word, a faulted one does not, and a stop stays a stop. -/
def ReportedAs (o : Host.Outcome State Fault Refusal) (w : Word) (r : Host.Outcome State Fault Refusal) : Prop :=
  (∀ t, r = .next t → (∀ k a, t.run ≠ .faulted k a) →
    o = .next { t with env := { t.env with executed := some w } }) ∧
  (∀ t k a, r = .next t → t.run = .faulted k a → o = .next t) ∧
  (∀ f, r = .fault f → o = .fault f) ∧
  (∀ f, r = .refused f → o = .refused f)

/-- How many rows `DRW` draws (rule R181). -/
def rowsDrawn (s : State) (n : Nibble) : Nat := if s.mode = .extended ∧ n = 0 then 16 else n.toNat

/-- How many bytes a drawn row has (rules R182, R183). -/
def rowBytes (s : State) (n : Nibble) : Nat := if s.mode = .extended ∧ n = 0 then 2 else 1

/-- The sprite fits in memory (rule R186). -/
def SpriteFits (s : State) (n : Nibble) : Prop :=
  rowsDrawn s n = 0 ∨ s.i.toNat + rowsDrawn s n * rowBytes s n - 1 ≤ 0xFFF

/-- The bit the wrapped sprite of `DRW Vx,Vy,n` has at a pixel of the active window, in closed form: the pixel's
distance from the sprite's corner, modulo the window, is a column and a row of the sprite (rules R182, R183, R187). -/
def spriteBit (s : State) (x y : Reg) (n : Nibble) (px py : Nat) : Bool :=
  let c := (px + (s.mode.width - (s.reg x).toNat % s.mode.width)) % s.mode.width
  let r := (py + (s.mode.height - (s.reg y).toNat % s.mode.height)) % s.mode.height
  decide (c < 8 * rowBytes s n) && decide (r < rowsDrawn s n) &&
    (s.byteAt (s.i.toNat + r * rowBytes s n + c / 8)).getLsbD (7 - c % 8)

/-- A pixel lies in the active window. -/
def InWindow (s : State) (px py : Nat) : Prop := px < s.mode.width ∧ py < s.mode.height

/-- The first offending address of an access upward from I: I itself if it is past the end, else 0x1000. -/
def offendingFromI (s : State) : Word := if 0xFFF < s.i.toNat then s.i else 0x1000

/-- The instruction answers AddressOutOfRange with the address `a` and has changed nothing. -/
def RaisesAddress (o : Host.Outcome State Fault Refusal) (s : State) (a : Word) : Prop :=
  o = .next { s with run := .faulted .addressOutOfRange a }

/-- The register V[r] is one that instruction `i` may write: its destination, VF where it writes a flag, or a slot of
the block it loads (rules R22, R223). -/
def mayWriteReg : Instr → Reg → Prop
  | .ldVxKk x _, r | .addVxKk x _, r | .ldVxVy x _, r | .orVxVy x _, r | .andVxVy x _, r | .xorVxVy x _, r => r = x
  | .addVxVy x _, r | .subVxVy x _, r | .subnVxVy x _, r | .shrVx x, r | .shlVx x, r => r = x ∨ r = VF
  | .rndVxKk x _, r | .ldVxDt x, r => r = x
  | .drw _ _ _, r => r = VF
  | .ldVxMem x, r | .ldVxR x, r => r ≤ x
  | .scd _, _ | .cls, _ | .ret, _ | .scr, _ | .scl, _ | .low, _ | .high, _ | .sys _, _ => False
  | .jp _, _ | .call _, _ | .seVxKk _ _, _ | .sneVxKk _ _, _ | .seVxVy _ _, _ | .sneVxVy _ _, _ => False
  | .ldINnn _, _ | .jpINnn _, _ | .skpVx _, _ | .sknpVx _, _ => False
  | .ldVxK _, _ | .ldDtVx _, _ | .ldStVx _, _ | .addIVx _, _ | .ldFVx _, _ | .ldHfVx _, _ | .ldBVx _, _ => False
  | .ldMemVx _, _ | .ldRVx _, _ => False

/-- An address that instruction `i` would access in state `s` lies outside memory (the conditions of rule R282). -/
def AccessesOutside : Instr → State → Prop
  | .call _, s => 0xFFF < s.sp.toNat + 1
  | .ret, s => s.sp.toNat < 2 ∨ 0x1000 < s.sp.toNat
  | .drw _ _ n, s => ¬ SpriteFits s n
  | .ldBVx _, s => 0xFFF < s.i.toNat + 2
  | .ldMemVx x, s | .ldVxMem x, s => 0xFFF < s.i.toNat + x.val
  | .scd _, _ | .cls, _ | .scr, _ | .scl, _ | .low, _ | .high, _ | .sys _, _ | .jp _, _ | .jpINnn _, _ => False
  | .seVxKk _ _, _ | .sneVxKk _ _, _ | .seVxVy _ _, _ | .sneVxVy _ _, _ | .skpVx _, _ | .sknpVx _, _ => False
  | .ldVxKk _ _, _ | .addVxKk _ _, _ | .ldVxVy _ _, _ | .orVxVy _ _, _ | .andVxVy _ _, _ | .xorVxVy _ _, _ => False
  | .addVxVy _ _, _ | .subVxVy _ _, _ | .shrVx _, _ | .subnVxVy _ _, _ | .shlVx _, _ => False
  | .ldINnn _, _ | .rndVxKk _ _, _ | .ldVxDt _, _ | .ldVxK _, _ | .ldDtVx _, _ | .ldStVx _, _ => False
  | .addIVx _, _ | .ldFVx _, _ | .ldHfVx _, _ | .ldRVx _, _ | .ldVxR _, _ => False

end Sys2Proof.Claims

open Sys2Proof Sys2Proof.Machine Sys2Proof.Claims

/-! ### Encoding -/

/-- Words written out from 30_encoding.md decode to their instructions: rules R94 to R101, the words of the spec's own
examples; the numbers the source does not give are decisions D5 to D8. -/
def Obligations.SpecWordsDecode : Prop :=
  decode 0x00C2 = .ok (.scd 2) ∧ decode 0x0AE0 = .ok .cls ∧ decode 0x00EE = .ok .ret ∧
  decode 0x00FD = .ok (.sys 0x0FD) ∧ decode 0x220A = .ok (.call 0x20A) ∧ decode 0x3310 = .ok (.seVxKk 3 0x10) ∧
  decode 0x5ABF = .ok (.seVxVy 0xA 0xB) ∧ decode 0x8014 = .ok (.addVxVy 0 1) ∧ decode 0x8FFE = .ok (.shlVx 0xF) ∧
  decode 0xA300 = .ok (.ldINnn 0x300) ∧ decode 0xC10F = .ok (.rndVxKk 1 0x0F) ∧ decode 0xD012 = .ok (.drw 0 1 2) ∧
  decode 0xE0A1 = .ok (.sknpVx 0) ∧ decode 0xF265 = .ok (.ldVxMem 2) ∧
  decode 0x8ABF = .error (.unknownInstruction 0x8ABF)

/-- No bit of an encoding is dropped: the word emitted for any well-formed instruction, with any operands, decodes to
that instruction (rules R92 to R98, R104). -/
def Obligations.DecodeUndoesEncode : Prop :=
  ∀ i : Instr, i.wellFormed = true → decode (encode i) = .ok i

/-- What the decoder answers is an instruction: a `SYS` it answers lies in the no-op space (rules R95, R101,
decision D8). -/
def Obligations.DecodedInstructionsAreWellFormed : Prop :=
  ∀ (w : Word) (i : Instr), decode w = .ok i → i.wellFormed = true

/-- Ignored bits have no effect, and nothing else is ignored: the emitted word is the decoded one with its ignored bits
cleared, and any word that agrees on the other bits decodes to the same instruction (rule R99, decision D9). -/
def Obligations.IgnoredBitsHaveNoEffect : Prop :=
  ∀ (w : Word) (i : Instr), decode w = .ok i →
    encode i = w &&& usedBits i ∧ ∀ w' : Word, w' &&& usedBits i = w &&& usedBits i → decode w' = .ok i

/-- The illegal words are exactly those of rule R100, and each is refused under its own name; in particular no word of
group 0x0 is refused (rule R240, decision D8). -/
def Obligations.IllegalWordsAreExactlyThese : Prop :=
  ∀ w : Word, (decode w = .error (.unknownInstruction w) ↔
      (w.toNat / 4096 = 0x8 ∧ w.toNat % 16 ∈ [8, 9, 0xA, 0xB, 0xC, 0xD, 0xF]) ∨
      (w.toNat / 4096 = 0xE ∧ w.toNat % 256 ∉ [0x9E, 0xA1]) ∨
      (w.toNat / 4096 = 0xF ∧
        w.toNat % 256 ∉ [0x07, 0x0A, 0x15, 0x18, 0x1E, 0x29, 0x30, 0x33, 0x55, 0x65, 0x75, 0x85])) ∧
    ∀ op, decode w = .error (.unknownInstruction op) → op = w

/-! ### Events -/

/-- A step runs the decoded instruction: when the core runs, the next event is Execute and the two bytes at PC decode
to `i`, the step is `exec i` at the state dispatch finds, with the executed word put out (rules R121, R125, R294). The
schedule, the output and the closed launch phase are the model's (logs 1, 5, 6). -/
def Obligations.StepRunsTheDecodedInstruction : Prop :=
  ∀ (s : State) (i : Instr), s.run = .running → NextEventIs s .execute → s.pc.toNat + 1 ≤ 0xFFF →
    decode (wordAtPc s) = .ok i → ReportedAs (step s) (wordAtPc s) (exec i (foundAfterFetch s))

/-- An illegal word, fetched or injected, raises UnknownInstruction and changes nothing but what the path to dispatch
has done: the fetch has written OPERAND and advanced PC, the injected path has written OPERAND alone (rules R122, R124,
R283, decision D10; the schedule, the cleared output and the closed launch phase are the model's, logs 1, 5, 6). -/
def Obligations.IllegalWordRaisesUnknownInstruction : Prop :=
  (∀ (s : State) (op : Word), s.run = .running → NextEventIs s .execute → s.pc.toNat + 1 ≤ 0xFFF →
    decode (wordAtPc s) = .error (.unknownInstruction op) →
    step s = .next { foundAfterFetch s with run := .faulted .unknownInstruction (wordAtPc s) }) ∧
  (∀ (s : State) (w op : Word), s.run = .running → NextEventIs s (.executeInjected w) →
    decode w = .error (.unknownInstruction op) →
    step s = .next { foundAfterInjection s w with run := .faulted .unknownInstruction w })

/-- A fetch whose second byte lies outside memory raises AddressOutOfRange(PC) with nothing changed, and the first offending
address is PC, or 0x1000 where PC itself lies inside (rules R61, R121, R280, R282, decision D3; which of the two the fault
carries: log 11; the schedule, the cleared output and the closed launch phase: logs 1, 5, 6). -/
def Obligations.FetchPastEndOfMemoryFaults : Prop :=
  ∀ s : State, s.run = .running → NextEventIs s .execute → 0xFFF < s.pc.toNat + 1 →
    ∃ t, step s = .next t ∧ t = { s with run := .faulted .addressOutOfRange s.pc, env := envAfterExecute s } ∧
      t.firstOffendingAddress = some (if 0xFFF < s.pc.toNat then s.pc else 0x1000)

/-- An injected word runs without a fetch and without advancing PC (rule R122, the spec's reading D10; the schedule, the
output and the closed launch phase are the model's, logs 1, 5, 6). -/
def Obligations.InjectedWordRunsWithoutFetch : Prop :=
  ∀ (s : State) (w : Word) (i : Instr), s.run = .running → NextEventIs s (.executeInjected w) →
    decode w = .ok i → ReportedAs (step s) w (exec i (foundAfterInjection s w))

/-- While a key is awaited, or after a fault, Execute and ExecuteInjected have no transition (rule R120); the model
answers a fault of its own by name (its choice, log 2). -/
def Obligations.HeldOrStoppedCoreTakesNoExecute : Prop :=
  ∀ (s : State) (w : Word), NextEventIs s .execute ∨ NextEventIs s (.executeInjected w) →
    (∀ x, s.run = .awaitingKey x → step s = .fault (.heldAwaitingKey x)) ∧
    (∀ k a, s.run = .faulted k a → step s = .fault (.stoppedByFault k a))

/-- A Tick lowers each timer that is not 0 and changes nothing else of the hardware (rule R260); at the boundary the event
leaves the schedule and the last output is gone, which is the model's choice (logs 1, 5). -/
def Obligations.TickCountsDown : Prop :=
  ∀ s : State, s.run = .running → NextEventIs s .tick →
    step s = .next { s with
      dt := BitVec.ofNat 8 (s.dt.toNat - 1), st := BitVec.ofNat 8 (s.st.toNat - 1), env := envAfter s }

/-- A Tick is lost unless the core runs, and a KeyPress unless a key is awaited (rules R120, R212, R261, decision
D19; the schedule and the cleared output are the model's, logs 1, 5). -/
def Obligations.UnawaitedEventsChangeNothing : Prop :=
  (∀ s : State, s.run ≠ .running → NextEventIs s .tick → step s = .next { s with env := envAfter s }) ∧
  (∀ (s : State) (k : Fin 16), (∀ x, s.run ≠ .awaitingKey x) → NextEventIs s (.keyPress k) →
    step s = .next { s with env := envAfter s })

/-- After k ticks while running, each timer is what it was less k, and never below 0; nothing else of the hardware has
changed (rule R263; the schedule, and that the first tick clears the output, are the model's, logs 1, 5). -/
def Obligations.TimersStopAtZero : Prop :=
  ∀ (k : Nat) (s : State) (rest : List Event), s.run = .running → s.env.events = List.replicate k .tick ++ rest →
    Host.Core.run Sys2Proof.core k s = .next { s with
      dt := BitVec.ofNat 8 (s.dt.toNat - k), st := BitVec.ofNat 8 (s.st.toNat - k)
      env := { s.env with events := rest, executed := if k = 0 then s.env.executed else none } }

/-- A KeyPress while a key is awaited for register x puts the key's index into V[x] and resumes; nothing else changes
(rule R212, decision D20; the schedule and the cleared output are the model's, logs 1, 5). -/
def Obligations.KeyPressCompletesTheWait : Prop :=
  ∀ (s : State) (x : Reg) (k : Fin 16), s.run = .awaitingKey x → NextEventIs s (.keyPress k) →
    ∃ t, step s = .next t ∧ (t.reg x).toNat = k.val ∧ (∀ r, r ≠ x → t.reg r = s.reg r) ∧ SameBytes s t ∧
      t = { s with v := t.v, run := .running, env := envAfter s }

/-- The Reset event, in every run state, leaves the reset state; the boundary keeps its schedule and the launch phase
opens (rule R310, decision D11; the boundary is the model's, logs 1, 5, 6). -/
def Obligations.ResetEventRestoresResetState : Prop :=
  ∀ s : State, NextEventIs s .reset →
    step s = .next { State.reset with env := { envAfter s with launch := true } }

/-- The values of the state after reset (rule R37; MODE, MEM, FB and RUN are the spec's decision D11). -/
def Obligations.ResetStateHoldsTheResetValues : Prop :=
  (∀ r, State.reset.reg r = 0) ∧ State.reset.i = 0 ∧ State.reset.sp = 0x0052 ∧ State.reset.pc = 0x0200 ∧
  State.reset.dt = 0 ∧ State.reset.st = 0 ∧ (∀ k : Fin 16, State.reset.rpl.get k = 0) ∧ State.reset.operand = 0 ∧
  State.reset.mode = .normal ∧ (∀ a, State.reset.byteAt a = 0) ∧
  (∀ x y, Grid.get State.reset.fb x y = false) ∧ State.reset.run = .running

/-- Load in the launch phase writes its bytes upward from the offset and changes nothing else of the hardware (rule R72;
the schedule, the cleared output and the launch phase's flag are the model's, logs 1, 5, 6). -/
def Obligations.LoadWritesItsBytes : Prop :=
  ∀ (s : State) (offset : Nat) (bytes : List Byte), Memory.wf s.mem = true → s.env.launch = true →
    NextEventIs s (.load offset bytes) → offset + bytes.length ≤ 4096 →
    ∃ t, step s = .next t ∧ (∀ k, (h : k < bytes.length) → t.byteAt (offset + k) = bytes[k]) ∧
      (∀ a, a < offset ∨ offset + bytes.length ≤ a → t.byteAt a = s.byteAt a) ∧
      t = { s with mem := t.mem, env := envAfter s }

/-- A Load past the end of memory, or once execution has begun, is refused (rule R72, decision D22; the refusals' names
are the model's, log 2). -/
def Obligations.LoadIsRefusedOutsideItsDomain : Prop :=
  ∀ (s : State) (offset : Nat) (bytes : List Byte), NextEventIs s (.load offset bytes) →
    (s.env.launch = false → step s = .refused .loadAfterLaunch) ∧
    (s.env.launch = true → 4096 < offset + bytes.length →
      step s = .refused (.loadPastEndOfMemory offset bytes.length))

/-- A word placed from outside is what the very next step runs, at PC where it fits, and at the reset PC otherwise (log 7:
it stands for the host's Load; rules R62, R121). -/
def Obligations.PlacedWordRunsNext : Prop :=
  ∀ (s : State) (w : Word) (i : Instr), Memory.wf s.mem = true → decode w = .ok i →
    (s.withFetchWord 16 w.toNat).pc = (if s.pc.toNat + 1 ≤ 0xFFF then s.pc else 0x0200) ∧
    wordAtPc (s.withFetchWord 16 w.toNat) = w ∧
    ReportedAs (step (s.withFetchWord 16 w.toNat)) w (exec i (foundAfterFetch (s.withFetchWord 16 w.toNat)))

/-! ### Control flow -/

/-- `JP nnn`: PC becomes the 12-bit address, zero-extended; nothing else changes (rule R140). -/
def Obligations.JumpSetsPc : Prop :=
  ∀ (nnn : Address) (s : State), exec (.jp nnn) s = .next { s with pc := BitVec.ofNat 16 nnn.toNat }

/-- `JP I,nnn`: PC becomes I plus the address, modulo 65536; nothing else changes (rule R147, decision D12). -/
def Obligations.IndexedJumpAddsI : Prop :=
  ∀ (nnn : Address) (s : State),
    exec (.jpINnn nnn) s = .next { s with pc := BitVec.ofNat 16 (s.i.toNat + nnn.toNat) }

/-- `CALL nnn` where both stack bytes lie in memory: the PC it finds is stored at SP, low byte first, SP moves up by 2
and PC becomes the address; every other byte, and everything else, is unchanged (rules R63, R141). -/
def Obligations.CallPushesReturnAddress : Prop :=
  ∀ (nnn : Address) (s : State), Memory.wf s.mem = true → s.sp.toNat + 1 ≤ 0xFFF →
    ∃ t, exec (.call nnn) s = .next t ∧ t.pc.toNat = nnn.toNat ∧ t.sp.toNat = s.sp.toNat + 2 ∧
      (t.byteAt s.sp.toNat).toNat = s.pc.toNat % 256 ∧ (t.byteAt (s.sp.toNat + 1)).toNat = s.pc.toNat / 256 ∧
      (∀ a, a < s.sp.toNat ∨ s.sp.toNat + 2 ≤ a → t.byteAt a = s.byteAt a) ∧
      t = { s with pc := t.pc, sp := t.sp, mem := t.mem }

/-- `RET` where both stack bytes lie in memory: PC is the byte at SP − 1 over the byte at SP − 2, SP moves down by 2;
nothing else changes, the popped bytes included (rule R142). -/
def Obligations.ReturnPopsPc : Prop :=
  ∀ s : State, 2 ≤ s.sp.toNat → s.sp.toNat ≤ 0x1000 →
    exec .ret s = .next { s with
      sp := BitVec.ofNat 16 (s.sp.toNat - 2)
      pc := BitVec.ofNat 16 ((s.byteAt (s.sp.toNat - 1)).toNat * 256 + (s.byteAt (s.sp.toNat - 2)).toNat) }

/-- A `RET` reached with the SP a `CALL` left, the two stacked bytes intact, resumes at the PC the call found, with
the SP from before the call, whatever the subroutine did otherwise (rules R63, R141, R142). -/
def Obligations.ReturnUndoesCall : Prop :=
  ∀ (nnn : Address) (s t u : State), Memory.wf s.mem = true → s.sp.toNat + 1 ≤ 0xFFF →
    exec (.call nnn) s = .next t → u.sp = t.sp → u.byteAt s.sp.toNat = t.byteAt s.sp.toNat →
    u.byteAt (s.sp.toNat + 1) = t.byteAt (s.sp.toNat + 1) →
    exec .ret u = .next { u with pc := s.pc, sp := s.sp }

/-- `SE Vx,kk` and `SNE Vx,kk`: on a match PC advances by 2 more; nothing else changes (rules R143, R144). -/
def Obligations.ImmediateSkips : Prop :=
  ∀ (x : Reg) (kk : Byte) (s : State),
    exec (.seVxKk x kk) s =
      .next { s with pc := BitVec.ofNat 16 (s.pc.toNat + if s.reg x = kk then 2 else 0) } ∧
    exec (.sneVxKk x kk) s =
      .next { s with pc := BitVec.ofNat 16 (s.pc.toNat + if s.reg x = kk then 0 else 2) }

/-- `SE Vx,Vy` and `SNE Vx,Vy`: the same between two registers (rules R145, R146). -/
def Obligations.RegisterSkips : Prop :=
  ∀ (x y : Reg) (s : State),
    exec (.seVxVy x y) s =
      .next { s with pc := BitVec.ofNat 16 (s.pc.toNat + if s.reg x = s.reg y then 2 else 0) } ∧
    exec (.sneVxVy x y) s =
      .next { s with pc := BitVec.ofNat 16 (s.pc.toNat + if s.reg x = s.reg y then 0 else 2) }

/-- `SKP Vx` and `SKNP Vx`: the key is the low four bits of Vx, its level decides the skip; nothing else changes (rules
R200 to R203, decision D13; the level is a field of the boundary, log 3). -/
def Obligations.KeypadSkips : Prop :=
  ∀ (x : Reg) (s : State),
    exec (.skpVx x) s = .next { s with
      pc := BitVec.ofNat 16 (s.pc.toNat + if s.env.keyDown.getLsbD ((s.reg x).toNat % 16) then 2 else 0) } ∧
    exec (.sknpVx x) s = .next { s with
      pc := BitVec.ofNat 16 (s.pc.toNat + if s.env.keyDown.getLsbD ((s.reg x).toNat % 16) then 0 else 2) }

/-! ### Arithmetic and logic -/

/-- The six instructions that write a result and no flag: the result is in Vx, modulo 256, and no other register, flag,
byte or special register changes; x = VF is an ordinary destination; each has the encoding its rule names (rules R160
to R165). -/
def Obligations.PlainRegisterResults : Prop :=
  ∀ (x y : Reg) (kk : Byte) (s : State),
    WordIs (0x6000 + x.val * 0x100 + kk.toNat) (.ldVxKk x kk) ∧
    WordIs (0x7000 + x.val * 0x100 + kk.toNat) (.addVxKk x kk) ∧
    WordIs (0x8000 + x.val * 0x100 + y.val * 0x10) (.ldVxVy x y) ∧
    WordIs (0x8001 + x.val * 0x100 + y.val * 0x10) (.orVxVy x y) ∧
    WordIs (0x8002 + x.val * 0x100 + y.val * 0x10) (.andVxVy x y) ∧
    WordIs (0x8003 + x.val * 0x100 + y.val * 0x10) (.xorVxVy x y) ∧
    WritesReg (exec (.ldVxKk x kk) s) s x kk ∧
    WritesReg (exec (.addVxKk x kk) s) s x (BitVec.ofNat 8 ((s.reg x).toNat + kk.toNat)) ∧
    WritesReg (exec (.ldVxVy x y) s) s x (s.reg y) ∧
    WritesReg (exec (.orVxVy x y) s) s x (BitVec.ofNat 8 ((s.reg x).toNat ||| (s.reg y).toNat)) ∧
    WritesReg (exec (.andVxVy x y) s) s x (BitVec.ofNat 8 ((s.reg x).toNat &&& (s.reg y).toNat)) ∧
    WritesReg (exec (.xorVxVy x y) s) s x (BitVec.ofNat 8 ((s.reg x).toNat ^^^ (s.reg y).toNat))

/-- `ADD`, `SUB` and `SUBN`: the exact sum or difference modulo 256 goes to Vx, then the carry or not-borrow of the
values read before goes to VF; with x = VF the flag is what stays; each has the encoding its rule names (rules R166,
R167, R169). -/
def Obligations.SumsAndDifferencesWithFlag : Prop :=
  ∀ (x y : Reg) (s : State),
    WordIs (0x8004 + x.val * 0x100 + y.val * 0x10) (.addVxVy x y) ∧
    WordIs (0x8005 + x.val * 0x100 + y.val * 0x10) (.subVxVy x y) ∧
    WordIs (0x8007 + x.val * 0x100 + y.val * 0x10) (.subnVxVy x y) ∧
    WritesRegAndFlag (exec (.addVxVy x y) s) s x (BitVec.ofNat 8 ((s.reg x).toNat + (s.reg y).toNat))
      (if (s.reg x).toNat + (s.reg y).toNat > 255 then 1 else 0) ∧
    WritesRegAndFlag (exec (.subVxVy x y) s) s x (BitVec.ofInt 8 ((s.reg x).toNat - (s.reg y).toNat))
      (if (s.reg x).toNat ≥ (s.reg y).toNat then 1 else 0) ∧
    WritesRegAndFlag (exec (.subnVxVy x y) s) s x (BitVec.ofInt 8 ((s.reg y).toNat - (s.reg x).toNat))
      (if (s.reg y).toNat ≥ (s.reg x).toNat then 1 else 0)

/-- `SHR Vx` and `SHL Vx`: a logical shift of Vx by one, then the bit shifted out goes to VF; the Y
field of the word is ignored (rules R168, R170). -/
def Obligations.ShiftsWithFlag : Prop :=
  ∀ (x y : Reg) (s : State),
    WordIs (0x8006 + x.val * 0x100 + y.val * 0x10) (.shrVx x) ∧
    WordIs (0x800E + x.val * 0x100 + y.val * 0x10) (.shlVx x) ∧
    WritesRegAndFlag (exec (.shrVx x) s) s x (BitVec.ofNat 8 ((s.reg x).toNat / 2))
      (BitVec.ofNat 8 ((s.reg x).toNat % 2)) ∧
    WritesRegAndFlag (exec (.shlVx x) s) s x (BitVec.ofNat 8 ((s.reg x).toNat * 2))
      (BitVec.ofNat 8 ((s.reg x).toNat / 128))

/-! ### Miscellaneous and memory transfer -/

/-- `LD Vx,DT`, `LD DT,Vx`, `LD ST,Vx`: the value moves and nothing else changes; with the encodings
(rules R210, R213, R214). -/
def Obligations.TimerTransfers : Prop :=
  ∀ (x : Reg) (s : State),
    WordIs (0xF007 + x.val * 0x100) (.ldVxDt x) ∧ WordIs (0xF015 + x.val * 0x100) (.ldDtVx x) ∧
    WordIs (0xF018 + x.val * 0x100) (.ldStVx x) ∧
    WritesReg (exec (.ldVxDt x) s) s x s.dt ∧
    exec (.ldDtVx x) s = .next { s with dt := s.reg x } ∧
    exec (.ldStVx x) s = .next { s with st := s.reg x }

/-- `LD Vx,K`: RUN becomes AwaitingKey(x) and nothing else changes, Vx included (rule R211, decision
D19). -/
def Obligations.KeyWaitSuspends : Prop :=
  ∀ (x : Reg) (s : State), exec (.ldVxK x) s = .next { s with run := .awaitingKey x }

/-- `ADD I,Vx`: modulo 65536, no flag, nothing else changes (rule R215, decision D12). -/
def Obligations.AddToIndex : Prop :=
  ∀ (x : Reg) (s : State),
    exec (.addIVx x) s = .next { s with i := BitVec.ofNat 16 (s.i.toNat + (s.reg x).toNat) }

/-- `LD F,Vx` and `LD HF,Vx`: I becomes 5 times, or 10 times, the whole value of Vx; nothing else changes; with the
encodings (rules R216, R217). -/
def Obligations.GlyphAddresses : Prop :=
  ∀ (x : Reg) (s : State),
    WordIs (0xF029 + x.val * 0x100) (.ldFVx x) ∧ WordIs (0xF030 + x.val * 0x100) (.ldHfVx x) ∧
    exec (.ldFVx x) s = .next { s with i := BitVec.ofNat 16 ((s.reg x).toNat * 5) } ∧
    exec (.ldHfVx x) s = .next { s with i := BitVec.ofNat 16 ((s.reg x).toNat * 10) }

/-- `LD B,Vx` where the three bytes lie in memory: the decimal digits of Vx go to I, I + 1, I + 2, hundreds first; every
other byte, and everything else, is unchanged (rules R64, R218). -/
def Obligations.BcdStoresThreeDigits : Prop :=
  ∀ (x : Reg) (s : State), Memory.wf s.mem = true → s.i.toNat + 2 ≤ 0xFFF →
    ∃ t, exec (.ldBVx x) s = .next t ∧
      (t.byteAt s.i.toNat).toNat = (s.reg x).toNat / 100 ∧
      (t.byteAt (s.i.toNat + 1)).toNat = (s.reg x).toNat / 10 % 10 ∧
      (t.byteAt (s.i.toNat + 2)).toNat = (s.reg x).toNat % 10 ∧
      (∀ a, a < s.i.toNat ∨ s.i.toNat + 3 ≤ a → t.byteAt a = s.byteAt a) ∧ t = { s with mem := t.mem }

/-- `LD [I],Vx` where the block lies in memory: V0 to Vx go to I upward; every other byte, and everything else, I
included, is unchanged (rules R219, R223, decision D30). -/
def Obligations.BlockStore : Prop :=
  ∀ (x : Reg) (s : State), Memory.wf s.mem = true → s.i.toNat + x.val ≤ 0xFFF →
    ∃ t, exec (.ldMemVx x) s = .next t ∧ (∀ r : Reg, r ≤ x → t.byteAt (s.i.toNat + r.val) = s.reg r) ∧
      (∀ a, a < s.i.toNat ∨ s.i.toNat + x.val + 1 ≤ a → t.byteAt a = s.byteAt a) ∧ t = { s with mem := t.mem }

/-- `LD Vx,[I]` where the block lies in memory: V0 to Vx come from I upward; the registers above, memory, I and
everything else are unchanged (rules R220, R223, decision D30). -/
def Obligations.BlockLoad : Prop :=
  ∀ (x : Reg) (s : State), s.i.toNat + x.val ≤ 0xFFF →
    ∃ t, exec (.ldVxMem x) s = .next t ∧
      (∀ r : Reg, t.reg r = if r ≤ x then s.byteAt (s.i.toNat + r.val) else s.reg r) ∧ OnlyV s t

/-- What `LD [I],Vx` stored, `LD Vx,[I]` brings back, from any later state with the same I and those bytes intact (rules
R67, R219, R220). -/
def Obligations.BlockLoadUndoesBlockStore : Prop :=
  ∀ (x : Reg) (s t u : State), Memory.wf s.mem = true → s.i.toNat + x.val ≤ 0xFFF →
    exec (.ldMemVx x) s = .next t → u.i = s.i →
    (∀ r : Reg, r ≤ x → u.byteAt (s.i.toNat + r.val) = t.byteAt (s.i.toNat + r.val)) →
    ∃ w, exec (.ldVxMem x) u = .next w ∧ (∀ r : Reg, r ≤ x → w.reg r = s.reg r) ∧
      (∀ r : Reg, x < r → w.reg r = u.reg r)

/-- `LD R,Vx` and `LD Vx,R`: slots 0 to x are copied, slots above keep their values, nothing else changes; no X is out
of range; with the encodings (rules R221, R222). -/
def Obligations.RplTransfers : Prop :=
  ∀ (x : Reg) (s : State),
    WordIs (0xF075 + x.val * 0x100) (.ldRVx x) ∧ WordIs (0xF085 + x.val * 0x100) (.ldVxR x) ∧
    (∃ t, exec (.ldRVx x) s = .next t ∧
      (∀ k : Reg, t.rpl.get k = if k ≤ x then s.reg k else s.rpl.get k) ∧ SameBytes s t ∧
      t = { s with rpl := t.rpl }) ∧
    (∃ t, exec (.ldVxR x) s = .next t ∧
      (∀ k : Reg, t.reg k = if k ≤ x then s.rpl.get k else s.reg k) ∧ OnlyV s t)

/-- Self-modifying code, with no fence: a fetch reads the bytes memory holds at PC at that moment, and so it reads what a
block store, a digit store or a call has just put over the whole word at PC (rules R75, R319, decision D24). -/
def Obligations.StoredBytesAreFetched : Prop :=
  (∀ u : State, u.pc.toNat + 1 ≤ 0xFFF → u.fetchWord = some (wordAtPc u)) ∧
  (∀ (x p q : Reg) (s t : State), Memory.wf s.mem = true → s.i.toNat + x.val ≤ 0xFFF →
    s.pc.toNat = s.i.toNat + p.val → q.val = p.val + 1 → q ≤ x → exec (.ldMemVx x) s = .next t →
    t.fetchWord = some (BitVec.ofNat 16 ((s.reg p).toNat * 256 + (s.reg q).toNat))) ∧
  (∀ (x : Reg) (s t : State), Memory.wf s.mem = true → s.i.toNat + 2 ≤ 0xFFF → exec (.ldBVx x) s = .next t →
    (s.pc.toNat = s.i.toNat →
      t.fetchWord = some (BitVec.ofNat 16 ((s.reg x).toNat / 100 * 256 + (s.reg x).toNat / 10 % 10))) ∧
    (s.pc.toNat = s.i.toNat + 1 →
      t.fetchWord = some (BitVec.ofNat 16 ((s.reg x).toNat / 10 % 10 * 256 + (s.reg x).toNat % 10)))) ∧
  (∀ (nnn : Address) (s t : State), Memory.wf s.mem = true → s.sp.toNat + 1 ≤ 0xFFF → nnn.toNat = s.sp.toNat →
    exec (.call nnn) s = .next t →
    t.fetchWord = some (BitVec.ofNat 16 (s.pc.toNat % 256 * 256 + s.pc.toNat / 256)))

/-! ### Groups 0xA and 0xC -/

/-- `LD I,nnn`: I becomes the address, zero-extended; nothing else changes (rule R270, decision D6). -/
def Obligations.LoadIndexAddress : Prop :=
  ∀ (nnn : Address) (s : State), exec (.ldINnn nnn) s = .next { s with i := BitVec.ofNat 16 nnn.toNat }

/-- `RND Vx,kk`: Vx becomes a fresh free byte AND kk, so every bit cleared in kk is cleared; the byte is counted as taken,
and nothing else changes (rules R271, R272, decision D6; it holds whatever the byte is, log 4). -/
def Obligations.RandomByteIsMasked : Prop :=
  ∀ (x : Reg) (kk : Byte) (s : State),
    ∃ t, exec (.rndVxKk x kk) s = .next t ∧ t.reg x = Config.draw8 s.env.draws &&& kk ∧
      (∀ b, kk.getLsbD b = false → (t.reg x).getLsbD b = false) ∧ (∀ r, r ≠ x → t.reg r = s.reg r) ∧
      SameBytes s t ∧ t = { s with v := t.v, env := { s.env with draws := s.env.draws + 1 } }

/-! ### Mode and screen control -/

/-- `CLS` and `SCD n`, pixel by pixel: inside the active window clear() and scroll_down(n), outside it and elsewhere
nothing; no commit (rules R241, R242, R245, R250, decisions D16, D18). -/
def Obligations.ClearAndScrollDown : Prop :=
  ∀ (n : Nibble) (s : State),
    (∃ t, exec .cls s = .next t ∧ SameBytes s t ∧ t = { s with fb := t.fb } ∧
      (∀ x y, InWindow s x y → Grid.get t.fb x y = false) ∧
      (∀ x y, ¬ InWindow s x y → Grid.get t.fb x y = Grid.get s.fb x y)) ∧
    (∃ t, exec (.scd n) s = .next t ∧ SameBytes s t ∧ t = { s with fb := t.fb } ∧
      (∀ x y, InWindow s x y →
        Grid.get t.fb x y = if y < n.toNat then false else Grid.get s.fb x (y - n.toNat)) ∧
      (∀ x y, ¬ InWindow s x y → Grid.get t.fb x y = Grid.get s.fb x y))

/-- `SCR` and `SCL`, pixel by pixel: the window moves by 4 columns, vacated columns are dark, nothing wraps; no commit
(rules R243 to R245, R250, decisions D16, D18). -/
def Obligations.SidewaysScrolls : Prop :=
  ∀ s : State,
    (∃ t, exec .scr s = .next t ∧ SameBytes s t ∧ t = { s with fb := t.fb } ∧
      (∀ x y, InWindow s x y → Grid.get t.fb x y = if x < 4 then false else Grid.get s.fb (x - 4) y) ∧
      (∀ x y, ¬ InWindow s x y → Grid.get t.fb x y = Grid.get s.fb x y)) ∧
    (∃ t, exec .scl s = .next t ∧ SameBytes s t ∧ t = { s with fb := t.fb } ∧
      (∀ x y, InWindow s x y →
        Grid.get t.fb x y = if x + 4 < s.mode.width then Grid.get s.fb (x + 4) y else false) ∧
      (∀ x y, ¬ InWindow s x y → Grid.get t.fb x y = Grid.get s.fb x y))

/-- `LOW` and `HIGH`: the mode is set and the whole stored grid is dark, also when the mode does not change; nothing else
changes, no commit (rules R246, R247, R249, R250, decisions D17, D18). -/
def Obligations.ModeSwitchClearsTheGrid : Prop :=
  ∀ s : State,
    (∃ t, exec .low s = .next t ∧ SameBytes s t ∧ t = { s with mode := .normal, fb := t.fb } ∧
      ∀ x y, Grid.get t.fb x y = false) ∧
    (∃ t, exec .high s = .next t ∧ SameBytes s t ∧ t = { s with mode := .extended, fb := t.fb } ∧
      ∀ x y, Grid.get t.fb x y = false)

/-- `SYS nnn`: every word of group 0x0 that matches none of the seven patterns decodes to it, and it changes nothing (rules
R101, R248, decision D8). -/
def Obligations.SysIsNoOperation : Prop :=
  (∀ w : Word, w.toNat / 4096 = 0 → w.toNat / 16 % 16 ≠ 0xC →
    w.toNat % 256 ∉ [0xE0, 0xEE, 0xFB, 0xFC, 0xFE, 0xFF] → decode w = .ok (.sys (BitVec.ofNat 12 w.toNat))) ∧
  ∀ (nnn : Address) (s : State), exec (.sys nnn) s = .next s

/-! ### The sprite blitter -/

/-- `DRW Vx,Vy,n` where the sprite lies in memory: the grid becomes the old grid XOR the wrapped sprite, pixel by pixel,
and VF is 1 exactly when a set bit of the sprite meets a pixel that was lit before, else 0. The closed form holds
although the meaning is a loop over the pixels in order (rules R180 to R185, R187, decisions D14, D15, D32). -/
def Obligations.DrawXorsTheWrappedSprite : Prop :=
  ∀ (x y : Reg) (n : Nibble) (s : State), SpriteFits s n →
    ∃ t, exec (.drw x y n) s = .next t ∧
      (∀ px py, InWindow s px py →
        Grid.get t.fb px py = xor (Grid.get s.fb px py) (spriteBit s x y n px py)) ∧
      ((∃ px py, InWindow s px py ∧ spriteBit s x y n px py = true ∧ Grid.get s.fb px py = true) → t.reg VF = 1) ∧
      ((∀ px py, InWindow s px py → spriteBit s x y n px py = true → Grid.get s.fb px py = false) → t.reg VF = 0)

/-- `DRW` changes the active window, VF and the commit count, by one, and nothing else (rules R189, R191, decision D18;
the commit count is the model's, log 5). -/
def Obligations.DrawLeavesTheRest : Prop :=
  ∀ (x y : Reg) (n : Nibble) (s : State), SpriteFits s n →
    ∃ t, exec (.drw x y n) s = .next t ∧ (∀ r, r ≠ VF → t.reg r = s.reg r) ∧
      (∀ px py, ¬ InWindow s px py → Grid.get t.fb px py = Grid.get s.fb px py) ∧ SameBytes s t ∧
      t = { s with v := t.v, fb := t.fb, env := { s.env with commits := s.env.commits + 1 } }

/-- `DRW` with n = 0 in Normal mode: no pixel changes, VF becomes 0, one commit, and no fault whatever I holds (rules
R181, R186, decision D32). -/
def Obligations.DrawOfNoRowsOnlyClearsVf : Prop :=
  ∀ (x y : Reg) (s : State), s.mode = .normal →
    ∃ t, exec (.drw x y 0) s = .next t ∧ t.reg VF = 0 ∧ (∀ r, r ≠ VF → t.reg r = s.reg r) ∧ SameBytes s t ∧
      t = { s with v := t.v, env := { s.env with commits := s.env.commits + 1 } }

/-- Drawing the same sprite twice at the same place restores every pixel, and VF then tells whether a set bit of the
sprite met a pixel that was dark before the first draw (rule R190, conflict C16). -/
def Obligations.DoubleDrawRestoresTheGrid : Prop :=
  ∀ (x y : Reg) (n : Nibble) (s : State), SpriteFits s n → x ≠ VF → y ≠ VF →
    ∃ t u, exec (.drw x y n) s = .next t ∧ exec (.drw x y n) t = .next u ∧
      (∀ px py, Grid.get u.fb px py = Grid.get s.fb px py) ∧
      ((∃ px py, InWindow s px py ∧ spriteBit s x y n px py = true ∧ Grid.get s.fb px py = false) → u.reg VF = 1) ∧
      ((∀ px py, InWindow s px py → spriteBit s x y n px py = true → Grid.get s.fb px py = true) → u.reg VF = 0)

/-! ### Faults and the whole machine -/

/-- The exact conditions under which an instruction raises AddressOutOfRange, the address it reports, and that it has
changed nothing but RUN; and conversely no instruction makes a running core fault in any other way or case (rules R61,
R141, R142, R186, R218 to R220, R282, decision D3). -/
def Obligations.AddressFaultConditions : Prop :=
  ∀ (x y : Reg) (n : Nibble) (nnn : Address) (s : State),
    (0xFFF < s.sp.toNat + 1 →
      RaisesAddress (exec (.call nnn) s) s (if 0xFFF < s.sp.toNat then s.sp else 0x1000)) ∧
    (s.sp.toNat < 2 → RaisesAddress (exec .ret s) s 0xFFFF) ∧
    (0x1000 < s.sp.toNat → RaisesAddress (exec .ret s) s (BitVec.ofNat 16 (s.sp.toNat - 1))) ∧
    (¬ SpriteFits s n → RaisesAddress (exec (.drw x y n) s) s (offendingFromI s)) ∧
    (0xFFF < s.i.toNat + 2 → RaisesAddress (exec (.ldBVx x) s) s (offendingFromI s)) ∧
    (0xFFF < s.i.toNat + x.val → RaisesAddress (exec (.ldMemVx x) s) s (offendingFromI s) ∧
      RaisesAddress (exec (.ldVxMem x) s) s (offendingFromI s)) ∧
    ∀ (i : Instr) (t : State) (k : FaultKind) (a : Word), s.run = .running → exec i s = .next t →
      t.run = .faulted k a → k = .addressOutOfRange ∧ AccessesOutside i s

/-- Faults are precise: whichever step makes a running core fault, V, I, SP, DT, ST, RPL, MODE, MEM and FB are what they
were and no commit has been emitted (rules R283, R284; the schedule, the cleared output and the closed launch phase are
the model's, logs 1, 5, 6). -/
def Obligations.FaultsArePrecise : Prop :=
  ∀ (s t : State) (k : FaultKind) (a : Word), s.run = .running → step s = .next t → t.run = .faulted k a →
    t = { s with pc := t.pc, operand := t.operand, run := .faulted k a, env := envAfterExecute s }

/-- Which instructions may change which state: no instruction but those the spec names changes I, SP, DT, ST, RPL, MODE,
memory, FB or RUN, where RUN is changed by `LD Vx,K` and by the fault of one of the six instructions that access memory;
none changes OPERAND (rules R23, R24, R26 to R30, R32, R33, R66, R282). At the boundary `DRW` alone counts a commit (rule
R189, decision D18; the count is the model's, log 5) and `RND` alone takes a byte (log 4). -/
def Obligations.EachStateHasItsWriters : Prop :=
  ∀ (i : Instr) (s t : State), exec i s = .next t →
    (t.i ≠ s.i → (∃ nnn, i = .ldINnn nnn) ∨ ∃ x, i = .addIVx x ∨ i = .ldFVx x ∨ i = .ldHfVx x) ∧
    (t.sp ≠ s.sp → (∃ nnn, i = .call nnn) ∨ i = .ret) ∧
    (t.dt ≠ s.dt → ∃ x, i = .ldDtVx x) ∧
    (t.st ≠ s.st → ∃ x, i = .ldStVx x) ∧
    (t.rpl ≠ s.rpl → ∃ x, i = .ldRVx x) ∧
    (t.mode ≠ s.mode → i = .low ∨ i = .high) ∧
    (t.mem ≠ s.mem → (∃ nnn, i = .call nnn) ∨ ∃ x, i = .ldBVx x ∨ i = .ldMemVx x) ∧
    (t.fb ≠ s.fb → (∃ n, i = .scd n) ∨ i = .cls ∨ i = .scr ∨ i = .scl ∨ i = .low ∨ i = .high ∨
      ∃ x y n, i = .drw x y n) ∧
    (t.run ≠ s.run → (∃ x, i = .ldVxK x ∧ t.run = .awaitingKey x) ∨ (∃ a, t.run = .faulted .addressOutOfRange a) ∧
      ((∃ nnn, i = .call nnn) ∨ i = .ret ∨ (∃ x y n, i = .drw x y n) ∨
        ∃ x, i = .ldBVx x ∨ i = .ldMemVx x ∨ i = .ldVxMem x)) ∧
    t.operand = s.operand ∧
    (t.env.commits ≠ s.env.commits → ∃ x y n, i = .drw x y n) ∧
    (t.env.draws ≠ s.env.draws → ∃ x kk, i = .rndVxKk x kk)

/-- A register changes only where the instruction names it as its destination, writes VF as a flag, or loads a block that
reaches it (rules R21, R22, R191, R223). -/
def Obligations.OnlyNamedRegistersChange : Prop :=
  ∀ (i : Instr) (s t : State) (r : Reg), exec i s = .next t → t.reg r ≠ s.reg r → mayWriteReg i r

/-- PC is changed by the jumps, call, return and skips only, and a skip moves it by exactly 2 (rules R25, R148). -/
def Obligations.OnlyControlFlowMovesPc : Prop :=
  ∀ (i : Instr) (s t : State), exec i s = .next t → t.pc ≠ s.pc →
    (∃ nnn, i = .jp nnn ∨ i = .call nnn ∨ i = .jpINnn nnn) ∨ i = .ret ∨
    (t.pc = s.pc + 2 ∧ ((∃ x kk, i = .seVxKk x kk ∨ i = .sneVxKk x kk) ∨ (∃ x y, i = .seVxVy x y ∨ i = .sneVxVy x y) ∨
      ∃ x, i = .skpVx x ∨ i = .sknpVx x))

/-- No instruction's effect depends on the boundary but that of SKP, SKNP and RND: for every other instruction the state
after it does not depend on schedule, key levels, draws, launch phase or outputs; for SKP and SKNP the levels alone
matter, for RND the draw (rules R36, R202, R271; the boundary's fields are the model's, logs 1, 3, 4, 5, 6). Which event
is taken is not spoken of here. -/
def Obligations.BoundaryReachesStateThroughInputsOnly : Prop :=
  ∀ (i : Instr) (s t : State) (e : Env), exec i s = .next t →
    ((∃ x, i = .skpVx x ∨ i = .sknpVx x) → e.keyDown = s.env.keyDown) →
    ((∃ x kk, i = .rndVxKk x kk) → e.draws = s.env.draws) →
    ∃ t', exec i { s with env := e } = .next t' ∧ { t' with env := t.env } = t

/-- The reset state satisfies the invariant (rules R34, R35, R37). -/
def Obligations.InvariantAtReset : Prop := Inv State.reset

/-- Every step keeps the invariant, from every state that has it and under every event: memory stays canonical, pixels
outside the active window stay dark, SP stays even, and a latched fault keeps telling the truth (rules R24, R34, R35,
R281, R282; canonical memory is the model's, log 9, and the fetch fault's address log 11). -/
def Obligations.EveryStepKeepsTheInvariant : Prop :=
  ∀ s t : State, Inv s → step s = .next t → Inv t

/-! ### Outputs -/

/-- The fault report shows code 1 with the word or code 2 with the address while RUN is Faulted, and nothing otherwise; the
first offending address of an address fault is the one it carries, or 0x1000 where that lies inside memory, so it is
always outside; the sound status shows ST (rules R280, R282, R295, R296, decision D3; the codes are the spec's own, the
address inside memory is log 11's). -/
def Obligations.OutputsShowFaultAndSound : Prop :=
  ∀ (s : State) (w : Word),
    (s.run = .faulted .unknownInstruction w → s.faultReport = some (1, w)) ∧
    (s.run = .faulted .addressOutOfRange w → s.faultReport = some (2, w) ∧
      ∃ a, s.firstOffendingAddress = some a ∧ 0xFFF < a.toNat ∧ (0xFFF < w.toNat → a = w) ∧
        (w.toNat ≤ 0xFFF → a = 0x1000)) ∧
    ((∀ k a, s.run ≠ .faulted k a) → s.faultReport = none ∧ s.firstOffendingAddress = none) ∧ s.soundStatus = s.st

/-- No instruction reads ST or OPERAND: with other values in them it has the same effect on everything else, it leaves
OPERAND at the other value, and ST too unless it is `LD ST,Vx`, which writes the same value (rules R27, R29, R214). -/
def Obligations.NoInstructionReadsSoundTimerOrOperand : Prop :=
  ∀ (i : Instr) (s t : State) (sound : Byte) (word : Word), exec i s = .next t →
    ∃ t', exec i { s with st := sound, operand := word } = .next t' ∧
      { t' with st := t.st, operand := t.operand } = t ∧ t'.operand = word ∧
      ((∃ x, i = .ldStVx x) → t'.st = t.st) ∧ ((∀ x, i ≠ .ldStVx x) → t'.st = sound)
end

