-- ==== Sys2Proof/Laws/Decode.lean ====
section
/-! SUPPORT. Fields as numbers, and what the fields of a formatted word are: the lemmas a decoding proof cites
instead of unfolding bit vectors. -/

namespace Sys2Proof

theorem fieldTop_toNat (w : Word) : (fieldTop w).toNat = w.toNat / 4096 := by
  have := w.isLt
  simp only [fieldTop, BitVec.extractLsb'_toNat, Nat.shiftRight_eq_div_pow]
  omega

theorem fieldX_val (w : Word) : (fieldX w).val = w.toNat / 256 % 16 := by
  show (w.extractLsb' 8 4).toNat = _
  simp only [BitVec.extractLsb'_toNat, Nat.shiftRight_eq_div_pow]

theorem fieldY_val (w : Word) : (fieldY w).val = w.toNat / 16 % 16 := by
  show (w.extractLsb' 4 4).toNat = _
  simp only [BitVec.extractLsb'_toNat, Nat.shiftRight_eq_div_pow]

theorem fieldN_toNat (w : Word) : (fieldN w).toNat = w.toNat % 16 := by
  simp only [fieldN, BitVec.extractLsb'_toNat, Nat.shiftRight_eq_div_pow]
  omega

theorem fieldKK_toNat (w : Word) : (fieldKK w).toNat = w.toNat % 256 := by
  simp only [fieldKK, BitVec.extractLsb'_toNat, Nat.shiftRight_eq_div_pow]
  omega

theorem fieldNNN_toNat (w : Word) : (fieldNNN w).toNat = w.toNat % 4096 := by
  simp only [fieldNNN, BitVec.extractLsb'_toNat, Nat.shiftRight_eq_div_pow]
  omega

theorem wordOfBytes_toNat (hi lo : Byte) : (wordOfBytes hi lo).toNat = hi.toNat * 256 + lo.toNat := by
  have h := BitVec.toNat_append hi lo
  have hl := lo.isLt
  rw [← Nat.shiftLeft_add_eq_or_of_lt (by omega), Nat.shiftLeft_eq] at h
  exact h

/-- A word is the concatenation of its bytes: laying it out in memory loses nothing (rule R62). -/
theorem wordOfBytes_bytes (w : Word) : wordOfBytes (highByte w) (lowByte w) = w := by
  have := w.isLt
  apply BitVec.eq_of_toNat_eq
  rw [wordOfBytes_toNat]
  simp only [highByte, lowByte, BitVec.extractLsb'_toNat, Nat.shiftRight_eq_div_pow]
  omega

theorem formatA_toNat {top : Nat} (h : top < 16) (nnn : Address) :
    (formatA top nnn).toNat = top * 4096 + nnn.toNat := by
  have := nnn.isLt
  simp only [formatA, BitVec.toNat_ofNat]
  omega

theorem formatI_toNat {top : Nat} (h : top < 16) (x : Reg) (kk : Byte) :
    (formatI top x kk).toNat = top * 4096 + x.val * 256 + kk.toNat := by
  have := kk.isLt
  simp only [formatI, BitVec.toNat_ofNat]
  omega

theorem formatR_toNat {top : Nat} (h : top < 16) (x y : Reg) (n : Nibble) :
    (formatR top x y n).toNat = top * 4096 + x.val * 256 + y.val * 16 + n.toNat := by
  have := n.isLt
  simp only [formatR, BitVec.toNat_ofNat]
  omega

theorem formatZ_toNat {kk : Nat} (h : kk < 256) : (formatZ kk).toNat = kk := by
  simp only [formatZ, BitVec.toNat_ofNat]
  omega

/-- The fields of format A. -/
theorem formatA_fields {top : Nat} (h : top < 16) (nnn : Address) :
    (fieldTop (formatA top nnn)).toNat = top ∧ fieldNNN (formatA top nnn) = nnn := by
  have := nnn.isLt
  refine ⟨?_, BitVec.eq_of_toNat_eq ?_⟩
  · rw [fieldTop_toNat, formatA_toNat h]; omega
  · rw [fieldNNN_toNat, formatA_toNat h]; omega

/-- The fields of formats I and K. -/
theorem formatI_fields {top : Nat} (h : top < 16) (x : Reg) (kk : Byte) :
    (fieldTop (formatI top x kk)).toNat = top ∧ fieldX (formatI top x kk) = x ∧ fieldKK (formatI top x kk) = kk := by
  have := kk.isLt
  refine ⟨?_, Fin.ext ?_, BitVec.eq_of_toNat_eq ?_⟩
  · rw [fieldTop_toNat, formatI_toNat h]; omega
  · rw [fieldX_val, formatI_toNat h]; omega
  · rw [fieldKK_toNat, formatI_toNat h]; omega

/-- The fields of formats R and D. -/
theorem formatR_fields {top : Nat} (h : top < 16) (x y : Reg) (n : Nibble) :
    (fieldTop (formatR top x y n)).toNat = top ∧ fieldX (formatR top x y n) = x ∧
      fieldY (formatR top x y n) = y ∧ fieldN (formatR top x y n) = n := by
  have := n.isLt
  refine ⟨?_, Fin.ext ?_, Fin.ext ?_, BitVec.eq_of_toNat_eq ?_⟩
  · rw [fieldTop_toNat, formatR_toNat h]; omega
  · rw [fieldX_val, formatR_toNat h]; omega
  · rw [fieldY_val, formatR_toNat h]; omega
  · rw [fieldN_toNat, formatR_toNat h]; omega

end Sys2Proof
end

