-- ==== Sys2Proof/Laws/State.lean ====
section
/-! SUPPORT. One lemma per field per update: what an update leaves in each field. -/

namespace Sys2Proof.Machine

@[simp] theorem State.setReg_v (s : State) (r : Reg) (x : Byte) : (s.setReg r x).v = s.v.set r.val x r.isLt := rfl
@[simp] theorem State.setReg_i (s : State) (r : Reg) (x : Byte) : (s.setReg r x).i = s.i := rfl
@[simp] theorem State.setReg_sp (s : State) (r : Reg) (x : Byte) : (s.setReg r x).sp = s.sp := rfl
@[simp] theorem State.setReg_pc (s : State) (r : Reg) (x : Byte) : (s.setReg r x).pc = s.pc := rfl
@[simp] theorem State.setReg_dt (s : State) (r : Reg) (x : Byte) : (s.setReg r x).dt = s.dt := rfl
@[simp] theorem State.setReg_st (s : State) (r : Reg) (x : Byte) : (s.setReg r x).st = s.st := rfl
@[simp] theorem State.setReg_rpl (s : State) (r : Reg) (x : Byte) : (s.setReg r x).rpl = s.rpl := rfl
@[simp] theorem State.setReg_operand (s : State) (r : Reg) (x : Byte) : (s.setReg r x).operand = s.operand := rfl
@[simp] theorem State.setReg_mode (s : State) (r : Reg) (x : Byte) : (s.setReg r x).mode = s.mode := rfl
@[simp] theorem State.setReg_mem (s : State) (r : Reg) (x : Byte) : (s.setReg r x).mem = s.mem := rfl
@[simp] theorem State.setReg_fb (s : State) (r : Reg) (x : Byte) : (s.setReg r x).fb = s.fb := rfl
@[simp] theorem State.setReg_run (s : State) (r : Reg) (x : Byte) : (s.setReg r x).run = s.run := rfl
@[simp] theorem State.setReg_env (s : State) (r : Reg) (x : Byte) : (s.setReg r x).env = s.env := rfl

@[simp] theorem State.setV_v (s : State) (a : Vector Byte 16) : (s.setV a).v = a := rfl
@[simp] theorem State.setV_i (s : State) (a : Vector Byte 16) : (s.setV a).i = s.i := rfl
@[simp] theorem State.setV_sp (s : State) (a : Vector Byte 16) : (s.setV a).sp = s.sp := rfl
@[simp] theorem State.setV_pc (s : State) (a : Vector Byte 16) : (s.setV a).pc = s.pc := rfl
@[simp] theorem State.setV_dt (s : State) (a : Vector Byte 16) : (s.setV a).dt = s.dt := rfl
@[simp] theorem State.setV_st (s : State) (a : Vector Byte 16) : (s.setV a).st = s.st := rfl
@[simp] theorem State.setV_rpl (s : State) (a : Vector Byte 16) : (s.setV a).rpl = s.rpl := rfl
@[simp] theorem State.setV_operand (s : State) (a : Vector Byte 16) : (s.setV a).operand = s.operand := rfl
@[simp] theorem State.setV_mode (s : State) (a : Vector Byte 16) : (s.setV a).mode = s.mode := rfl
@[simp] theorem State.setV_mem (s : State) (a : Vector Byte 16) : (s.setV a).mem = s.mem := rfl
@[simp] theorem State.setV_fb (s : State) (a : Vector Byte 16) : (s.setV a).fb = s.fb := rfl
@[simp] theorem State.setV_run (s : State) (a : Vector Byte 16) : (s.setV a).run = s.run := rfl
@[simp] theorem State.setV_env (s : State) (a : Vector Byte 16) : (s.setV a).env = s.env := rfl

@[simp] theorem State.setI_v (s : State) (a : Word) : (s.setI a).v = s.v := rfl
@[simp] theorem State.setI_i (s : State) (a : Word) : (s.setI a).i = a := rfl
@[simp] theorem State.setI_sp (s : State) (a : Word) : (s.setI a).sp = s.sp := rfl
@[simp] theorem State.setI_pc (s : State) (a : Word) : (s.setI a).pc = s.pc := rfl
@[simp] theorem State.setI_dt (s : State) (a : Word) : (s.setI a).dt = s.dt := rfl
@[simp] theorem State.setI_st (s : State) (a : Word) : (s.setI a).st = s.st := rfl
@[simp] theorem State.setI_rpl (s : State) (a : Word) : (s.setI a).rpl = s.rpl := rfl
@[simp] theorem State.setI_operand (s : State) (a : Word) : (s.setI a).operand = s.operand := rfl
@[simp] theorem State.setI_mode (s : State) (a : Word) : (s.setI a).mode = s.mode := rfl
@[simp] theorem State.setI_mem (s : State) (a : Word) : (s.setI a).mem = s.mem := rfl
@[simp] theorem State.setI_fb (s : State) (a : Word) : (s.setI a).fb = s.fb := rfl
@[simp] theorem State.setI_run (s : State) (a : Word) : (s.setI a).run = s.run := rfl
@[simp] theorem State.setI_env (s : State) (a : Word) : (s.setI a).env = s.env := rfl

@[simp] theorem State.setSp_v (s : State) (a : Word) : (s.setSp a).v = s.v := rfl
@[simp] theorem State.setSp_i (s : State) (a : Word) : (s.setSp a).i = s.i := rfl
@[simp] theorem State.setSp_sp (s : State) (a : Word) : (s.setSp a).sp = a := rfl
@[simp] theorem State.setSp_pc (s : State) (a : Word) : (s.setSp a).pc = s.pc := rfl
@[simp] theorem State.setSp_dt (s : State) (a : Word) : (s.setSp a).dt = s.dt := rfl
@[simp] theorem State.setSp_st (s : State) (a : Word) : (s.setSp a).st = s.st := rfl
@[simp] theorem State.setSp_rpl (s : State) (a : Word) : (s.setSp a).rpl = s.rpl := rfl
@[simp] theorem State.setSp_operand (s : State) (a : Word) : (s.setSp a).operand = s.operand := rfl
@[simp] theorem State.setSp_mode (s : State) (a : Word) : (s.setSp a).mode = s.mode := rfl
@[simp] theorem State.setSp_mem (s : State) (a : Word) : (s.setSp a).mem = s.mem := rfl
@[simp] theorem State.setSp_fb (s : State) (a : Word) : (s.setSp a).fb = s.fb := rfl
@[simp] theorem State.setSp_run (s : State) (a : Word) : (s.setSp a).run = s.run := rfl
@[simp] theorem State.setSp_env (s : State) (a : Word) : (s.setSp a).env = s.env := rfl

@[simp] theorem State.setPc_v (s : State) (a : Word) : (s.setPc a).v = s.v := rfl
@[simp] theorem State.setPc_i (s : State) (a : Word) : (s.setPc a).i = s.i := rfl
@[simp] theorem State.setPc_sp (s : State) (a : Word) : (s.setPc a).sp = s.sp := rfl
@[simp] theorem State.setPc_pc (s : State) (a : Word) : (s.setPc a).pc = a := rfl
@[simp] theorem State.setPc_dt (s : State) (a : Word) : (s.setPc a).dt = s.dt := rfl
@[simp] theorem State.setPc_st (s : State) (a : Word) : (s.setPc a).st = s.st := rfl
@[simp] theorem State.setPc_rpl (s : State) (a : Word) : (s.setPc a).rpl = s.rpl := rfl
@[simp] theorem State.setPc_operand (s : State) (a : Word) : (s.setPc a).operand = s.operand := rfl
@[simp] theorem State.setPc_mode (s : State) (a : Word) : (s.setPc a).mode = s.mode := rfl
@[simp] theorem State.setPc_mem (s : State) (a : Word) : (s.setPc a).mem = s.mem := rfl
@[simp] theorem State.setPc_fb (s : State) (a : Word) : (s.setPc a).fb = s.fb := rfl
@[simp] theorem State.setPc_run (s : State) (a : Word) : (s.setPc a).run = s.run := rfl
@[simp] theorem State.setPc_env (s : State) (a : Word) : (s.setPc a).env = s.env := rfl

@[simp] theorem State.setDt_v (s : State) (a : Byte) : (s.setDt a).v = s.v := rfl
@[simp] theorem State.setDt_i (s : State) (a : Byte) : (s.setDt a).i = s.i := rfl
@[simp] theorem State.setDt_sp (s : State) (a : Byte) : (s.setDt a).sp = s.sp := rfl
@[simp] theorem State.setDt_pc (s : State) (a : Byte) : (s.setDt a).pc = s.pc := rfl
@[simp] theorem State.setDt_dt (s : State) (a : Byte) : (s.setDt a).dt = a := rfl
@[simp] theorem State.setDt_st (s : State) (a : Byte) : (s.setDt a).st = s.st := rfl
@[simp] theorem State.setDt_rpl (s : State) (a : Byte) : (s.setDt a).rpl = s.rpl := rfl
@[simp] theorem State.setDt_operand (s : State) (a : Byte) : (s.setDt a).operand = s.operand := rfl
@[simp] theorem State.setDt_mode (s : State) (a : Byte) : (s.setDt a).mode = s.mode := rfl
@[simp] theorem State.setDt_mem (s : State) (a : Byte) : (s.setDt a).mem = s.mem := rfl
@[simp] theorem State.setDt_fb (s : State) (a : Byte) : (s.setDt a).fb = s.fb := rfl
@[simp] theorem State.setDt_run (s : State) (a : Byte) : (s.setDt a).run = s.run := rfl
@[simp] theorem State.setDt_env (s : State) (a : Byte) : (s.setDt a).env = s.env := rfl

@[simp] theorem State.setSt_v (s : State) (a : Byte) : (s.setSt a).v = s.v := rfl
@[simp] theorem State.setSt_i (s : State) (a : Byte) : (s.setSt a).i = s.i := rfl
@[simp] theorem State.setSt_sp (s : State) (a : Byte) : (s.setSt a).sp = s.sp := rfl
@[simp] theorem State.setSt_pc (s : State) (a : Byte) : (s.setSt a).pc = s.pc := rfl
@[simp] theorem State.setSt_dt (s : State) (a : Byte) : (s.setSt a).dt = s.dt := rfl
@[simp] theorem State.setSt_st (s : State) (a : Byte) : (s.setSt a).st = a := rfl
@[simp] theorem State.setSt_rpl (s : State) (a : Byte) : (s.setSt a).rpl = s.rpl := rfl
@[simp] theorem State.setSt_operand (s : State) (a : Byte) : (s.setSt a).operand = s.operand := rfl
@[simp] theorem State.setSt_mode (s : State) (a : Byte) : (s.setSt a).mode = s.mode := rfl
@[simp] theorem State.setSt_mem (s : State) (a : Byte) : (s.setSt a).mem = s.mem := rfl
@[simp] theorem State.setSt_fb (s : State) (a : Byte) : (s.setSt a).fb = s.fb := rfl
@[simp] theorem State.setSt_run (s : State) (a : Byte) : (s.setSt a).run = s.run := rfl
@[simp] theorem State.setSt_env (s : State) (a : Byte) : (s.setSt a).env = s.env := rfl

@[simp] theorem State.setRpl_v (s : State) (a : Vector Byte 16) : (s.setRpl a).v = s.v := rfl
@[simp] theorem State.setRpl_i (s : State) (a : Vector Byte 16) : (s.setRpl a).i = s.i := rfl
@[simp] theorem State.setRpl_sp (s : State) (a : Vector Byte 16) : (s.setRpl a).sp = s.sp := rfl
@[simp] theorem State.setRpl_pc (s : State) (a : Vector Byte 16) : (s.setRpl a).pc = s.pc := rfl
@[simp] theorem State.setRpl_dt (s : State) (a : Vector Byte 16) : (s.setRpl a).dt = s.dt := rfl
@[simp] theorem State.setRpl_st (s : State) (a : Vector Byte 16) : (s.setRpl a).st = s.st := rfl
@[simp] theorem State.setRpl_rpl (s : State) (a : Vector Byte 16) : (s.setRpl a).rpl = a := rfl
@[simp] theorem State.setRpl_operand (s : State) (a : Vector Byte 16) : (s.setRpl a).operand = s.operand := rfl
@[simp] theorem State.setRpl_mode (s : State) (a : Vector Byte 16) : (s.setRpl a).mode = s.mode := rfl
@[simp] theorem State.setRpl_mem (s : State) (a : Vector Byte 16) : (s.setRpl a).mem = s.mem := rfl
@[simp] theorem State.setRpl_fb (s : State) (a : Vector Byte 16) : (s.setRpl a).fb = s.fb := rfl
@[simp] theorem State.setRpl_run (s : State) (a : Vector Byte 16) : (s.setRpl a).run = s.run := rfl
@[simp] theorem State.setRpl_env (s : State) (a : Vector Byte 16) : (s.setRpl a).env = s.env := rfl

@[simp] theorem State.setOperand_v (s : State) (a : Word) : (s.setOperand a).v = s.v := rfl
@[simp] theorem State.setOperand_i (s : State) (a : Word) : (s.setOperand a).i = s.i := rfl
@[simp] theorem State.setOperand_sp (s : State) (a : Word) : (s.setOperand a).sp = s.sp := rfl
@[simp] theorem State.setOperand_pc (s : State) (a : Word) : (s.setOperand a).pc = s.pc := rfl
@[simp] theorem State.setOperand_dt (s : State) (a : Word) : (s.setOperand a).dt = s.dt := rfl
@[simp] theorem State.setOperand_st (s : State) (a : Word) : (s.setOperand a).st = s.st := rfl
@[simp] theorem State.setOperand_rpl (s : State) (a : Word) : (s.setOperand a).rpl = s.rpl := rfl
@[simp] theorem State.setOperand_operand (s : State) (a : Word) : (s.setOperand a).operand = a := rfl
@[simp] theorem State.setOperand_mode (s : State) (a : Word) : (s.setOperand a).mode = s.mode := rfl
@[simp] theorem State.setOperand_mem (s : State) (a : Word) : (s.setOperand a).mem = s.mem := rfl
@[simp] theorem State.setOperand_fb (s : State) (a : Word) : (s.setOperand a).fb = s.fb := rfl
@[simp] theorem State.setOperand_run (s : State) (a : Word) : (s.setOperand a).run = s.run := rfl
@[simp] theorem State.setOperand_env (s : State) (a : Word) : (s.setOperand a).env = s.env := rfl

@[simp] theorem State.setMode_v (s : State) (a : Mode) : (s.setMode a).v = s.v := rfl
@[simp] theorem State.setMode_i (s : State) (a : Mode) : (s.setMode a).i = s.i := rfl
@[simp] theorem State.setMode_sp (s : State) (a : Mode) : (s.setMode a).sp = s.sp := rfl
@[simp] theorem State.setMode_pc (s : State) (a : Mode) : (s.setMode a).pc = s.pc := rfl
@[simp] theorem State.setMode_dt (s : State) (a : Mode) : (s.setMode a).dt = s.dt := rfl
@[simp] theorem State.setMode_st (s : State) (a : Mode) : (s.setMode a).st = s.st := rfl
@[simp] theorem State.setMode_rpl (s : State) (a : Mode) : (s.setMode a).rpl = s.rpl := rfl
@[simp] theorem State.setMode_operand (s : State) (a : Mode) : (s.setMode a).operand = s.operand := rfl
@[simp] theorem State.setMode_mode (s : State) (a : Mode) : (s.setMode a).mode = a := rfl
@[simp] theorem State.setMode_mem (s : State) (a : Mode) : (s.setMode a).mem = s.mem := rfl
@[simp] theorem State.setMode_fb (s : State) (a : Mode) : (s.setMode a).fb = s.fb := rfl
@[simp] theorem State.setMode_run (s : State) (a : Mode) : (s.setMode a).run = s.run := rfl
@[simp] theorem State.setMode_env (s : State) (a : Mode) : (s.setMode a).env = s.env := rfl

@[simp] theorem State.setMem_v (s : State) (a : Memory) : (s.setMem a).v = s.v := rfl
@[simp] theorem State.setMem_i (s : State) (a : Memory) : (s.setMem a).i = s.i := rfl
@[simp] theorem State.setMem_sp (s : State) (a : Memory) : (s.setMem a).sp = s.sp := rfl
@[simp] theorem State.setMem_pc (s : State) (a : Memory) : (s.setMem a).pc = s.pc := rfl
@[simp] theorem State.setMem_dt (s : State) (a : Memory) : (s.setMem a).dt = s.dt := rfl
@[simp] theorem State.setMem_st (s : State) (a : Memory) : (s.setMem a).st = s.st := rfl
@[simp] theorem State.setMem_rpl (s : State) (a : Memory) : (s.setMem a).rpl = s.rpl := rfl
@[simp] theorem State.setMem_operand (s : State) (a : Memory) : (s.setMem a).operand = s.operand := rfl
@[simp] theorem State.setMem_mode (s : State) (a : Memory) : (s.setMem a).mode = s.mode := rfl
@[simp] theorem State.setMem_mem (s : State) (a : Memory) : (s.setMem a).mem = a := rfl
@[simp] theorem State.setMem_fb (s : State) (a : Memory) : (s.setMem a).fb = s.fb := rfl
@[simp] theorem State.setMem_run (s : State) (a : Memory) : (s.setMem a).run = s.run := rfl
@[simp] theorem State.setMem_env (s : State) (a : Memory) : (s.setMem a).env = s.env := rfl

@[simp] theorem State.setFb_v (s : State) (a : Grid) : (s.setFb a).v = s.v := rfl
@[simp] theorem State.setFb_i (s : State) (a : Grid) : (s.setFb a).i = s.i := rfl
@[simp] theorem State.setFb_sp (s : State) (a : Grid) : (s.setFb a).sp = s.sp := rfl
@[simp] theorem State.setFb_pc (s : State) (a : Grid) : (s.setFb a).pc = s.pc := rfl
@[simp] theorem State.setFb_dt (s : State) (a : Grid) : (s.setFb a).dt = s.dt := rfl
@[simp] theorem State.setFb_st (s : State) (a : Grid) : (s.setFb a).st = s.st := rfl
@[simp] theorem State.setFb_rpl (s : State) (a : Grid) : (s.setFb a).rpl = s.rpl := rfl
@[simp] theorem State.setFb_operand (s : State) (a : Grid) : (s.setFb a).operand = s.operand := rfl
@[simp] theorem State.setFb_mode (s : State) (a : Grid) : (s.setFb a).mode = s.mode := rfl
@[simp] theorem State.setFb_mem (s : State) (a : Grid) : (s.setFb a).mem = s.mem := rfl
@[simp] theorem State.setFb_fb (s : State) (a : Grid) : (s.setFb a).fb = a := rfl
@[simp] theorem State.setFb_run (s : State) (a : Grid) : (s.setFb a).run = s.run := rfl
@[simp] theorem State.setFb_env (s : State) (a : Grid) : (s.setFb a).env = s.env := rfl

@[simp] theorem State.setRun_v (s : State) (a : RunState) : (s.setRun a).v = s.v := rfl
@[simp] theorem State.setRun_i (s : State) (a : RunState) : (s.setRun a).i = s.i := rfl
@[simp] theorem State.setRun_sp (s : State) (a : RunState) : (s.setRun a).sp = s.sp := rfl
@[simp] theorem State.setRun_pc (s : State) (a : RunState) : (s.setRun a).pc = s.pc := rfl
@[simp] theorem State.setRun_dt (s : State) (a : RunState) : (s.setRun a).dt = s.dt := rfl
@[simp] theorem State.setRun_st (s : State) (a : RunState) : (s.setRun a).st = s.st := rfl
@[simp] theorem State.setRun_rpl (s : State) (a : RunState) : (s.setRun a).rpl = s.rpl := rfl
@[simp] theorem State.setRun_operand (s : State) (a : RunState) : (s.setRun a).operand = s.operand := rfl
@[simp] theorem State.setRun_mode (s : State) (a : RunState) : (s.setRun a).mode = s.mode := rfl
@[simp] theorem State.setRun_mem (s : State) (a : RunState) : (s.setRun a).mem = s.mem := rfl
@[simp] theorem State.setRun_fb (s : State) (a : RunState) : (s.setRun a).fb = s.fb := rfl
@[simp] theorem State.setRun_run (s : State) (a : RunState) : (s.setRun a).run = a := rfl
@[simp] theorem State.setRun_env (s : State) (a : RunState) : (s.setRun a).env = s.env := rfl

@[simp] theorem State.setEnv_v (s : State) (a : Env) : (s.setEnv a).v = s.v := rfl
@[simp] theorem State.setEnv_i (s : State) (a : Env) : (s.setEnv a).i = s.i := rfl
@[simp] theorem State.setEnv_sp (s : State) (a : Env) : (s.setEnv a).sp = s.sp := rfl
@[simp] theorem State.setEnv_pc (s : State) (a : Env) : (s.setEnv a).pc = s.pc := rfl
@[simp] theorem State.setEnv_dt (s : State) (a : Env) : (s.setEnv a).dt = s.dt := rfl
@[simp] theorem State.setEnv_st (s : State) (a : Env) : (s.setEnv a).st = s.st := rfl
@[simp] theorem State.setEnv_rpl (s : State) (a : Env) : (s.setEnv a).rpl = s.rpl := rfl
@[simp] theorem State.setEnv_operand (s : State) (a : Env) : (s.setEnv a).operand = s.operand := rfl
@[simp] theorem State.setEnv_mode (s : State) (a : Env) : (s.setEnv a).mode = s.mode := rfl
@[simp] theorem State.setEnv_mem (s : State) (a : Env) : (s.setEnv a).mem = s.mem := rfl
@[simp] theorem State.setEnv_fb (s : State) (a : Env) : (s.setEnv a).fb = s.fb := rfl
@[simp] theorem State.setEnv_run (s : State) (a : Env) : (s.setEnv a).run = s.run := rfl
@[simp] theorem State.setEnv_env (s : State) (a : Env) : (s.setEnv a).env = a := rfl

@[simp] theorem State.raise_v (s : State) (k : FaultKind) (a : Word) : (s.raise k a).v = s.v := rfl
@[simp] theorem State.raise_i (s : State) (k : FaultKind) (a : Word) : (s.raise k a).i = s.i := rfl
@[simp] theorem State.raise_sp (s : State) (k : FaultKind) (a : Word) : (s.raise k a).sp = s.sp := rfl
@[simp] theorem State.raise_pc (s : State) (k : FaultKind) (a : Word) : (s.raise k a).pc = s.pc := rfl
@[simp] theorem State.raise_dt (s : State) (k : FaultKind) (a : Word) : (s.raise k a).dt = s.dt := rfl
@[simp] theorem State.raise_st (s : State) (k : FaultKind) (a : Word) : (s.raise k a).st = s.st := rfl
@[simp] theorem State.raise_rpl (s : State) (k : FaultKind) (a : Word) : (s.raise k a).rpl = s.rpl := rfl
@[simp] theorem State.raise_operand (s : State) (k : FaultKind) (a : Word) : (s.raise k a).operand = s.operand := rfl
@[simp] theorem State.raise_mode (s : State) (k : FaultKind) (a : Word) : (s.raise k a).mode = s.mode := rfl
@[simp] theorem State.raise_mem (s : State) (k : FaultKind) (a : Word) : (s.raise k a).mem = s.mem := rfl
@[simp] theorem State.raise_fb (s : State) (k : FaultKind) (a : Word) : (s.raise k a).fb = s.fb := rfl
@[simp] theorem State.raise_run (s : State) (k : FaultKind) (a : Word) : (s.raise k a).run = .faulted k a := rfl
@[simp] theorem State.raise_env (s : State) (k : FaultKind) (a : Word) : (s.raise k a).env = s.env := rfl

@[simp] theorem State.emitCommit_v (s : State) : (s.emitCommit).v = s.v := rfl
@[simp] theorem State.emitCommit_i (s : State) : (s.emitCommit).i = s.i := rfl
@[simp] theorem State.emitCommit_sp (s : State) : (s.emitCommit).sp = s.sp := rfl
@[simp] theorem State.emitCommit_pc (s : State) : (s.emitCommit).pc = s.pc := rfl
@[simp] theorem State.emitCommit_dt (s : State) : (s.emitCommit).dt = s.dt := rfl
@[simp] theorem State.emitCommit_st (s : State) : (s.emitCommit).st = s.st := rfl
@[simp] theorem State.emitCommit_rpl (s : State) : (s.emitCommit).rpl = s.rpl := rfl
@[simp] theorem State.emitCommit_operand (s : State) : (s.emitCommit).operand = s.operand := rfl
@[simp] theorem State.emitCommit_mode (s : State) : (s.emitCommit).mode = s.mode := rfl
@[simp] theorem State.emitCommit_mem (s : State) : (s.emitCommit).mem = s.mem := rfl
@[simp] theorem State.emitCommit_fb (s : State) : (s.emitCommit).fb = s.fb := rfl
@[simp] theorem State.emitCommit_run (s : State) : (s.emitCommit).run = s.run := rfl
@[simp] theorem State.emitCommit_env (s : State) : (s.emitCommit).env = { s.env with commits := s.env.commits + 1 } := rfl

@[simp] theorem State.takeDraw_v (s : State) : (s.takeDraw).v = s.v := rfl
@[simp] theorem State.takeDraw_i (s : State) : (s.takeDraw).i = s.i := rfl
@[simp] theorem State.takeDraw_sp (s : State) : (s.takeDraw).sp = s.sp := rfl
@[simp] theorem State.takeDraw_pc (s : State) : (s.takeDraw).pc = s.pc := rfl
@[simp] theorem State.takeDraw_dt (s : State) : (s.takeDraw).dt = s.dt := rfl
@[simp] theorem State.takeDraw_st (s : State) : (s.takeDraw).st = s.st := rfl
@[simp] theorem State.takeDraw_rpl (s : State) : (s.takeDraw).rpl = s.rpl := rfl
@[simp] theorem State.takeDraw_operand (s : State) : (s.takeDraw).operand = s.operand := rfl
@[simp] theorem State.takeDraw_mode (s : State) : (s.takeDraw).mode = s.mode := rfl
@[simp] theorem State.takeDraw_mem (s : State) : (s.takeDraw).mem = s.mem := rfl
@[simp] theorem State.takeDraw_fb (s : State) : (s.takeDraw).fb = s.fb := rfl
@[simp] theorem State.takeDraw_run (s : State) : (s.takeDraw).run = s.run := rfl
@[simp] theorem State.takeDraw_env (s : State) : (s.takeDraw).env = { s.env with draws := s.env.draws + 1 } := rfl

@[simp] theorem State.endLaunch_v (s : State) : (s.endLaunch).v = s.v := rfl
@[simp] theorem State.endLaunch_i (s : State) : (s.endLaunch).i = s.i := rfl
@[simp] theorem State.endLaunch_sp (s : State) : (s.endLaunch).sp = s.sp := rfl
@[simp] theorem State.endLaunch_pc (s : State) : (s.endLaunch).pc = s.pc := rfl
@[simp] theorem State.endLaunch_dt (s : State) : (s.endLaunch).dt = s.dt := rfl
@[simp] theorem State.endLaunch_st (s : State) : (s.endLaunch).st = s.st := rfl
@[simp] theorem State.endLaunch_rpl (s : State) : (s.endLaunch).rpl = s.rpl := rfl
@[simp] theorem State.endLaunch_operand (s : State) : (s.endLaunch).operand = s.operand := rfl
@[simp] theorem State.endLaunch_mode (s : State) : (s.endLaunch).mode = s.mode := rfl
@[simp] theorem State.endLaunch_mem (s : State) : (s.endLaunch).mem = s.mem := rfl
@[simp] theorem State.endLaunch_fb (s : State) : (s.endLaunch).fb = s.fb := rfl
@[simp] theorem State.endLaunch_run (s : State) : (s.endLaunch).run = s.run := rfl
@[simp] theorem State.endLaunch_env (s : State) : (s.endLaunch).env = { s.env with launch := false } := rfl

@[simp] theorem State.beginEvent_v (s : State) : (s.beginEvent).v = s.v := rfl
@[simp] theorem State.beginEvent_i (s : State) : (s.beginEvent).i = s.i := rfl
@[simp] theorem State.beginEvent_sp (s : State) : (s.beginEvent).sp = s.sp := rfl
@[simp] theorem State.beginEvent_pc (s : State) : (s.beginEvent).pc = s.pc := rfl
@[simp] theorem State.beginEvent_dt (s : State) : (s.beginEvent).dt = s.dt := rfl
@[simp] theorem State.beginEvent_st (s : State) : (s.beginEvent).st = s.st := rfl
@[simp] theorem State.beginEvent_rpl (s : State) : (s.beginEvent).rpl = s.rpl := rfl
@[simp] theorem State.beginEvent_operand (s : State) : (s.beginEvent).operand = s.operand := rfl
@[simp] theorem State.beginEvent_mode (s : State) : (s.beginEvent).mode = s.mode := rfl
@[simp] theorem State.beginEvent_mem (s : State) : (s.beginEvent).mem = s.mem := rfl
@[simp] theorem State.beginEvent_fb (s : State) : (s.beginEvent).fb = s.fb := rfl
@[simp] theorem State.beginEvent_run (s : State) : (s.beginEvent).run = s.run := rfl
@[simp] theorem State.beginEvent_env (s : State) : (s.beginEvent).env = { s.env with events := s.env.events.tail, executed := none } := rfl

theorem State.setReg_reg (s : State) (r q : Reg) (x : Byte) : (s.setReg r x).reg q = if q = r then x else s.reg q := by
  simp only [State.reg, State.setReg, Vector.get_eq_getElem, Vector.getElem_set, Fin.ext_iff]
  grind

@[simp] theorem State.setReg_reg_same (s : State) (r : Reg) (x : Byte) : (s.setReg r x).reg r = x := by
  simp [State.setReg_reg]

theorem State.setReg_reg_other (s : State) {r q : Reg} (x : Byte) (h : q ≠ r) : (s.setReg r x).reg q = s.reg q := by
  simp [State.setReg_reg, h]

/-- The flag ends in VF whatever the destination was; a destination other than VF keeps the result (rule R172). -/
theorem State.setRegThenFlag_reg (s : State) (x q : Reg) (result flag : Byte) :
    (s.setRegThenFlag x result flag).reg q = if q = VF then flag else if q = x then result else s.reg q := by
  simp only [State.setRegThenFlag, State.setReg_reg]

end Sys2Proof.Machine
end

