-- ==== Sys2Proof/Laws/Display.lean ====
section
/-! SUPPORT. The laws of the pixel grid, pixel by pixel: read after write, and what a rewrite of the active window
leaves at each coordinate. -/

namespace Sys2Proof.Machine

theorem Grid.get_eq_row (g : Grid) (x y : Nat) : Grid.get g x y = (Grid.row g y).getLsbD x := by
  unfold Grid.get Grid.row
  split <;> simp

theorem Grid.get_of_height_le (g : Grid) {x y : Nat} (h : 64 ≤ y) : Grid.get g x y = false := by
  simp [Grid.get, show ¬ y < 64 by omega]

theorem Grid.get_of_width_le (g : Grid) {x y : Nat} (h : 128 ≤ x) : Grid.get g x y = false := by
  unfold Grid.get
  split
  · exact BitVec.getLsbD_of_ge _ _ h
  · rfl

theorem setPixel_getLsbD (row : Row) (x q : Nat) (b : Bool) (hx : x < 128) :
    (setPixel row x b).getLsbD q = if q = x then b else row.getLsbD q := by
  unfold setPixel
  by_cases hq : q = x
  · subst hq
    cases b <;> simp [hx]
  · have : ¬ x = q := fun h => hq h.symm
    cases b
    · by_cases h128 : q < 128
      · simp [hq, h128]
      · simp [hq, BitVec.getLsbD_of_ge _ _ (Nat.le_of_not_lt h128)]
    · simp [BitVec.getLsbD_twoPow, hq, this]

/-- Read after write of one pixel (rule R74). -/
theorem Grid.get_set (g : Grid) (x y : Nat) (b : Bool) (p q : Nat) (hx : x < 128) (hy : y < 64) :
    Grid.get (Grid.set g x y b) p q = if p = x ∧ q = y then b else Grid.get g p q := by
  unfold Grid.set
  rw [dif_pos hy]
  unfold Grid.get
  by_cases hq : q < 64
  · rw [dif_pos hq, dif_pos hq]
    by_cases hqy : y = q
    · subst hqy
      simp [setPixel_getLsbD _ _ _ _ hx]
    · have : ¬ q = y := fun h => hqy h.symm
      simp [Vector.getElem_set_ne hy hq hqy, this]
  · have : ¬ q = y := by omega
    simp [hq, this]

theorem windowColumns_getLsbD (m : Mode) (x : Nat) : (windowColumns m).getLsbD x = decide (x < m.width) := by
  cases m with
  | normal =>
    simp only [windowColumns, Mode.width, BitVec.getLsbD_ofNat, Nat.testBit_two_pow_sub_one]
    by_cases h : x < 64
    · simp [h]; omega
    · simp [h]
  | extended => exact BitVec.getLsbD_allOnes

theorem Mode.width_le (m : Mode) : m.width ≤ 128 := by cases m <;> decide

theorem Mode.height_le (m : Mode) : m.height ≤ 64 := by cases m <;> decide

theorem Mode.width_pos (m : Mode) : 0 < m.width := by cases m <;> decide

theorem Mode.height_pos (m : Mode) : 0 < m.height := by cases m <;> decide

/-- A rewrite of the active window: the new row inside it, the old pixel outside it. -/
theorem Grid.get_inWindow (m : Mode) (g : Grid) (new : Nat → Row) (x y : Nat) :
    Grid.get (Grid.inWindow m g new) x y =
      if x < m.width ∧ y < m.height then (new y).getLsbD x else Grid.get g x y := by
  have hw := m.width_le
  have hh := m.height_le
  by_cases hy : y < 64
  · simp only [Grid.get, hy, dif_pos, Grid.inWindow, Vector.getElem_ofFn]
    by_cases h1 : y < m.height
    · rw [if_pos h1]
      by_cases h2 : x < m.width
      · simp [h1, h2, windowColumns_getLsbD]
      · by_cases h3 : x < 128
        · have hc : (windowColumns m).getLsbD x = false := by simp [windowColumns_getLsbD, h2]
          simp only [BitVec.getLsbD_or, BitVec.getLsbD_and, BitVec.getLsbD_not, hc]
          simp [h2, h3]
        · simp [h1, h2, BitVec.getLsbD_of_ge _ _ (Nat.le_of_not_lt h3)]
    · simp [h1]
  · rw [Grid.get_of_height_le _ (by omega), if_neg (by omega), Grid.get_of_height_le _ (by omega)]

/-- `clear()` pixel by pixel (rule R245). -/
theorem Grid.get_clear (m : Mode) (g : Grid) (x y : Nat) :
    Grid.get (Grid.clear m g) x y = if x < m.width ∧ y < m.height then false else Grid.get g x y := by
  simp [Grid.clear, Grid.get_inWindow]

/-- One drawn pixel: the grid at its place is the exclusive OR, every other pixel is unchanged (rule R184). -/
theorem get_xorPixel (acc : Grid × Bool) (p : SpritePixel) (x y : Nat) (hx : p.x < 128) (hy : p.y < 64) :
    Grid.get (xorPixel acc p).1 x y =
      if x = p.x ∧ y = p.y then xor (Grid.get acc.1 p.x p.y) p.lit else Grid.get acc.1 x y :=
  Grid.get_set _ _ _ _ _ _ hx hy

/-- A dark grid. -/
@[simp] theorem Grid.get_dark (x y : Nat) : Grid.get (Vector.replicate 64 0) x y = false := by
  unfold Grid.get
  split <;> simp

end Sys2Proof.Machine
end

