-- ==== Sys2Proof/Laws/Memory.lean ====
section
/-! SUPPORT. The laws of memory: read after write, writes leave every other byte alone, and every operation keeps the
canonical form. -/

namespace Sys2Proof.Machine

theorem Memory.read_of_lt {lo : Nat} {m : Memory} (h : Memory.wfFrom lo m = true) {a : Nat} (ha : a < lo) :
    Memory.read m a = Config.unlistedByte := by
  induction m generalizing lo with
  | nil => rfl
  | cons c rest ih =>
    obtain ⟨b, y⟩ := c
    simp only [Memory.wfFrom, Bool.and_eq_true, decide_eq_true_eq] at h
    rw [Memory.read, if_neg (by omega)]
    exact ih h.2 (by omega)

theorem Memory.read_insert {lo : Nat} {m : Memory} (h : Memory.wfFrom lo m = true) (a b : Nat) (x : Byte) :
    Memory.read (Memory.insert a x m) b = if b = a then x else Memory.read m b := by
  induction m generalizing lo with
  | nil =>
    by_cases hx : x = Config.unlistedByte
    · simp [Memory.insert, Memory.read, hx]
    · rw [Memory.insert, if_neg hx]
      rfl
  | cons c rest ih =>
    obtain ⟨d, y⟩ := c
    simp only [Memory.wfFrom, Bool.and_eq_true, decide_eq_true_eq] at h
    have hr := fun e (he : e < d + 1) => Memory.read_of_lt h.2 (a := e) he
    have := ih h.2
    by_cases hx : x = Config.unlistedByte
    · simp only [Memory.insert, hx, if_true]
      grind [Memory.read]
    · simp only [Memory.insert, hx, if_false]
      grind [Memory.read]

theorem Memory.wfFrom_mono {lo lo' : Nat} {m : Memory} (h : Memory.wfFrom lo m = true) (hl : lo' ≤ lo) :
    Memory.wfFrom lo' m = true := by
  cases m with
  | nil => rfl
  | cons c rest =>
    simp only [Memory.wfFrom, Bool.and_eq_true, decide_eq_true_eq] at h ⊢
    exact ⟨⟨⟨by omega, h.1.1.2⟩, h.1.2⟩, h.2⟩

theorem Memory.wfFrom_insert {lo a : Nat} {m : Memory} (h : Memory.wfFrom lo m = true) (x : Byte) (hl : lo ≤ a)
    (ha : a < Config.memSize) : Memory.wfFrom lo (Memory.insert a x m) = true := by
  induction m generalizing lo with
  | nil =>
    by_cases hx : x = Config.unlistedByte
    · simp [Memory.insert, Memory.wfFrom, hx]
    · rw [Memory.insert, if_neg hx]
      simp only [Memory.wfFrom, Bool.and_eq_true, decide_eq_true_eq]
      exact ⟨⟨⟨hl, ha⟩, hx⟩, trivial⟩
  | cons c rest ih =>
    obtain ⟨d, y⟩ := c
    simp only [Memory.wfFrom, Bool.and_eq_true, decide_eq_true_eq] at h
    have hm := Memory.wfFrom_mono (lo' := lo) h.2 (by omega)
    have := fun e => ih (lo := d + 1) h.2 e
    by_cases hx : x = Config.unlistedByte <;> simp only [Memory.insert, hx, if_true, if_false] <;>
      grind [Memory.wfFrom]

/-- A write keeps the canonical form. -/
theorem Memory.wf_write {m : Memory} (h : Memory.wf m = true) (a : Nat) (x : Byte) :
    Memory.wf (Memory.write m a x) = true := by
  unfold Memory.write
  split
  · exact Memory.wfFrom_insert h x (by omega) ‹_›
  · exact h

/-- Read after write. -/
theorem Memory.read_write {m : Memory} (h : Memory.wf m = true) (a b : Nat) (x : Byte) (ha : a < Config.memSize) :
    Memory.read (Memory.write m a x) b = if b = a then x else Memory.read m b := by
  rw [Memory.write, if_pos ha, Memory.read_insert h]

/-- Writing consecutive bytes keeps the canonical form. -/
theorem Memory.wf_writeAll {m : Memory} (h : Memory.wf m = true) (a : Nat) (xs : List Byte) :
    Memory.wf (Memory.writeAll m a xs) = true := by
  induction xs generalizing m a with
  | nil => exact h
  | cons x rest ih => exact ih (Memory.wf_write h a x) (a + 1)

/-- Consecutive bytes are read back where they were written, and every other byte is unchanged. -/
theorem Memory.read_writeAll {m : Memory} (h : Memory.wf m = true) (a : Nat) (xs : List Byte) (b : Nat)
    (ha : a + xs.length ≤ Config.memSize) :
    Memory.read (Memory.writeAll m a xs) b =
      if hb : a ≤ b ∧ b < a + xs.length then xs[b - a]'(by omega) else Memory.read m b := by
  induction xs generalizing m a with
  | nil => simp [Memory.writeAll]
  | cons x rest ih =>
    simp only [List.length_cons] at ha ⊢
    rw [Memory.writeAll, ih (Memory.wf_write h a x) (a + 1) (by omega), Memory.read_write h a b x (by omega)]
    by_cases hb : b = a
    · subst hb; simp
    · by_cases hc : a + 1 ≤ b ∧ b < a + 1 + rest.length
      · rw [dif_pos hc, dif_pos (by omega), List.getElem_cons, dif_neg (by omega)]
        congr 1
      · rw [dif_neg hc, dif_neg (by omega), if_neg hb]

/-- Reset memory is canonical. -/
theorem Memory.wf_reset : Memory.wf State.reset.mem = true := rfl

end Sys2Proof.Machine
end

