-- ==== Sys2Proof/Laws/Ops.lean ====
section
/-! SUPPORT. One lemma per shared operation that says once everything it can do. -/

namespace Sys2Proof.Machine

theorem inMemory_iff (base len : Nat) : inMemory base len = true ↔ len = 0 ∨ base + len ≤ 4096 := by
  simp [inMemory]

/-- An operation guarded by the bound either is done or raises with nothing changed but RUN. -/
theorem State.ifInMemory_cases (s : State) (base : Word) (len : Nat) (done : State) :
    (len = 0 ∨ base.toNat + len ≤ 4096) ∧ s.ifInMemory base len done = done ∨
      (len ≠ 0 ∧ 4096 < base.toNat + len) ∧
        s.ifInMemory base len done = s.raise .addressOutOfRange (firstOutside base) := by
  unfold State.ifInMemory
  by_cases h : inMemory base.toNat len = true
  · rw [if_pos h]
    exact .inl ⟨(inMemory_iff _ _).mp h, rfl⟩
  · rw [if_neg h]
    rw [inMemory_iff] at h
    exact .inr ⟨by omega, rfl⟩

theorem State.ifInMemory_of_fits (s : State) {base : Word} {len : Nat} (done : State)
    (h : len = 0 ∨ base.toNat + len ≤ 4096) : s.ifInMemory base len done = done := by
  rw [State.ifInMemory, if_pos ((inMemory_iff _ _).mpr h)]

theorem State.ifInMemory_of_outside (s : State) {base : Word} {len : Nat} (done : State)
    (h0 : len ≠ 0) (h : 4096 < base.toNat + len) :
    s.ifInMemory base len done = s.raise .addressOutOfRange (firstOutside base) := by
  rw [State.ifInMemory, if_neg]
  rw [inMemory_iff]
  omega

theorem firstOutside_toNat (base : Word) : (firstOutside base).toNat = max base.toNat 0x1000 := by
  unfold firstOutside
  split
  · have h : base.toNat < 4096 := ‹_›
    show (4096 : Nat) = _
    omega
  · have h : ¬ base.toNat < 4096 := ‹_›
    omega

/-- A skip changes PC or nothing. -/
theorem State.skipIf_eq (s : State) (c : Bool) : s.skipIf c = s.setPc (if c then s.pc + 2 else s.pc) := by
  cases c <;> rfl

/-- A bank after a block transfer, slot by slot (rule R223). -/
theorem blockUpTo_get (x : Reg) (new old : Fin 16 → Byte) (r : Fin 16) :
    (blockUpTo x new old).get r = if r ≤ x then new r else old r := by
  simp [blockUpTo, Vector.get_eq_getElem]

/-- The block of registers to store: its length and its bytes (rules R219, R223). -/
theorem State.regsUpTo_length (s : State) (x : Reg) : (s.regsUpTo x).length = x.val + 1 := by
  have := x.isLt
  simp [State.regsUpTo]

theorem State.regsUpTo_getElem (s : State) (x : Reg) (k : Nat) (h : k < (s.regsUpTo x).length) (hk : k < 16) :
    (s.regsUpTo x)[k] = s.reg ⟨k, hk⟩ := by
  simp [State.regsUpTo, State.reg, Vector.get_eq_getElem]

/-- What a return from a subroutine can do (rule R142): the addresses it cannot read. -/
theorem popFault_none_iff (sp : Word) : popFault sp = none ↔ 2 ≤ sp.toNat ∧ sp.toNat ≤ 4096 := by
  unfold popFault
  split
  · simp; omega
  · split
    · simp; omega
    · simp; omega

/-- An outcome of `onNext` comes from a next state. -/
theorem onNext_next {f : State → State} {o : Host.Outcome State Fault Refusal} {t : State} (h : onNext f o = .next t) :
    ∃ s, o = .next s ∧ t = f s := by
  cases o with
  | next s => exact ⟨s, rfl, by cases h; rfl⟩
  | fault r => cases h
  | refused r => cases h

/-- What reporting the executed word can change: the output, and nothing else. -/
theorem State.reportExecuted_eq (w : Word) (s : State) :
    s.reportExecuted w = s ∨ s.reportExecuted w = s.setEnv { s.env with executed := some w } := by
  unfold State.reportExecuted
  split
  · exact .inl rfl
  · exact .inr rfl
  · exact .inr rfl

/-- What Execute can do: it is held or stopped, the fetch faults, or the fetched word is dispatched. -/
theorem execute_cases (s : State) :
    (∃ x, s.run = .awaitingKey x ∧ execute s = .fault (.heldAwaitingKey x)) ∨
    (∃ k a, s.run = .faulted k a ∧ execute s = .fault (.stoppedByFault k a)) ∨
    (s.run = .running ∧ s.fetchWord = none ∧ execute s = .next (s.endLaunch.raise .addressOutOfRange s.pc)) ∨
    (∃ w, s.run = .running ∧ s.fetchWord = some w ∧ execute s = dispatchWord w (s.fetched w)) := by
  unfold execute
  cases hr : s.run with
  | awaitingKey x => exact .inl ⟨x, rfl, rfl⟩
  | faulted k a => exact .inr (.inl ⟨k, a, rfl, rfl⟩)
  | running =>
    cases hf : s.fetchWord with
    | none => exact .inr (.inr (.inl ⟨rfl, rfl, rfl⟩))
    | some w => exact .inr (.inr (.inr ⟨w, rfl, rfl, rfl⟩))

/-- What dispatching a word can do: run its instruction and report it, or raise UnknownInstruction (rule R124). -/
theorem dispatchWord_cases (w : Word) (s : State) :
    (∃ i, decode w = .ok i ∧ dispatchWord w s = onNext (State.reportExecuted w) (exec i s)) ∨
    (decode w = .error (.unknownInstruction w) ∧ dispatchWord w s = .next (s.raise .unknownInstruction w)) := by
  unfold dispatchWord
  cases hd : handlerOf w with
  | some i =>
    have : decode w = .ok i := by simp [decode, hd]
    rw [this]
    exact .inl ⟨i, rfl, rfl⟩
  | none =>
    have : decode w = .error (.unknownInstruction w) := by simp [decode, hd]
    rw [this]
    exact .inr ⟨rfl, rfl⟩

/-- Every meaning answers a next state: no instruction of the catalogue stops the model (rule R280). -/
theorem exec_answers_next (i : Instr) (s : State) : ∃ t, exec i s = .next t := by
  cases i with
  | ret =>
    show ∃ t, execRet s = .next t
    unfold execRet
    split <;> exact ⟨_, rfl⟩
  | _ => exact ⟨_, rfl⟩

end Sys2Proof.Machine
end

