-- ==== Sys2Proof/Laws/PerInstr.lean ====
section
/-! SUPPORT. Statements made per instruction. Family Encoding: the word `encode` emits carries the fixed bits of its
row of spec/opcode_table.json. -/

namespace Sys2Proof.Laws.Encoding

/-- The fixed bits of an opcode-table row: the top nibble, and a key held in `modulus` values above a shift. -/
structure TableRow where
  top : Nat
  shift : Nat
  modulus : Nat
  key : Nat

/-- The rows of spec/opcode_table.json, from their mask and match columns. -/
def row : Instr → TableRow
  | .scd _ => ⟨0x0, 16, 16, 0xc⟩
  | .cls => ⟨0x0, 1, 256, 0xe0⟩
  | .ret => ⟨0x0, 1, 256, 0xee⟩
  | .scr => ⟨0x0, 1, 256, 0xfb⟩
  | .scl => ⟨0x0, 1, 256, 0xfc⟩
  | .low => ⟨0x0, 1, 256, 0xfe⟩
  | .high => ⟨0x0, 1, 256, 0xff⟩
  | .sys _ => ⟨0x0, 1, 1, 0x0⟩
  | .jp _ => ⟨0x1, 1, 1, 0x0⟩
  | .call _ => ⟨0x2, 1, 1, 0x0⟩
  | .seVxKk _ _ => ⟨0x3, 1, 1, 0x0⟩
  | .sneVxKk _ _ => ⟨0x4, 1, 1, 0x0⟩
  | .seVxVy _ _ => ⟨0x5, 1, 1, 0x0⟩
  | .ldVxKk _ _ => ⟨0x6, 1, 1, 0x0⟩
  | .addVxKk _ _ => ⟨0x7, 1, 1, 0x0⟩
  | .ldVxVy _ _ => ⟨0x8, 1, 16, 0x0⟩
  | .orVxVy _ _ => ⟨0x8, 1, 16, 0x1⟩
  | .andVxVy _ _ => ⟨0x8, 1, 16, 0x2⟩
  | .xorVxVy _ _ => ⟨0x8, 1, 16, 0x3⟩
  | .addVxVy _ _ => ⟨0x8, 1, 16, 0x4⟩
  | .subVxVy _ _ => ⟨0x8, 1, 16, 0x5⟩
  | .shrVx _ => ⟨0x8, 1, 16, 0x6⟩
  | .subnVxVy _ _ => ⟨0x8, 1, 16, 0x7⟩
  | .shlVx _ => ⟨0x8, 1, 16, 0xe⟩
  | .sneVxVy _ _ => ⟨0x9, 1, 1, 0x0⟩
  | .ldINnn _ => ⟨0xa, 1, 1, 0x0⟩
  | .jpINnn _ => ⟨0xb, 1, 1, 0x0⟩
  | .rndVxKk _ _ => ⟨0xc, 1, 1, 0x0⟩
  | .drw _ _ _ => ⟨0xd, 1, 1, 0x0⟩
  | .skpVx _ => ⟨0xe, 1, 256, 0x9e⟩
  | .sknpVx _ => ⟨0xe, 1, 256, 0xa1⟩
  | .ldVxDt _ => ⟨0xf, 1, 256, 0x7⟩
  | .ldVxK _ => ⟨0xf, 1, 256, 0xa⟩
  | .ldDtVx _ => ⟨0xf, 1, 256, 0x15⟩
  | .ldStVx _ => ⟨0xf, 1, 256, 0x18⟩
  | .addIVx _ => ⟨0xf, 1, 256, 0x1e⟩
  | .ldFVx _ => ⟨0xf, 1, 256, 0x29⟩
  | .ldHfVx _ => ⟨0xf, 1, 256, 0x30⟩
  | .ldBVx _ => ⟨0xf, 1, 256, 0x33⟩
  | .ldMemVx _ => ⟨0xf, 1, 256, 0x55⟩
  | .ldVxMem _ => ⟨0xf, 1, 256, 0x65⟩
  | .ldRVx _ => ⟨0xf, 1, 256, 0x75⟩
  | .ldVxR _ => ⟨0xf, 1, 256, 0x85⟩

/-- The emitted word has the row's top nibble and the row's key. -/
def Statement (i : Instr) : Prop :=
  (encode i).toNat / 2 ^ 12 = (row i).top ∧ (encode i).toNat / (row i).shift % (row i).modulus = (row i).key

theorem scd (n : Nibble) : Statement (.scd n) := by
  have := n.isLt
  simp only [Statement, encode, row]
  rw [formatZ_toNat (by omega)]
  omega

theorem cls : Statement (.cls) := ⟨by decide, by decide⟩

theorem ret : Statement (.ret) := ⟨by decide, by decide⟩

theorem scr : Statement (.scr) := ⟨by decide, by decide⟩

theorem scl : Statement (.scl) := ⟨by decide, by decide⟩

theorem low : Statement (.low) := ⟨by decide, by decide⟩

theorem high : Statement (.high) := ⟨by decide, by decide⟩

theorem sys (nnn : Address) : Statement (.sys nnn) := by
  have := nnn.isLt
  simp only [Statement, encode, row]
  rw [formatA_toNat (by decide)]
  omega

theorem jp (nnn : Address) : Statement (.jp nnn) := by
  have := nnn.isLt
  simp only [Statement, encode, row]
  rw [formatA_toNat (by decide)]
  omega

theorem call (nnn : Address) : Statement (.call nnn) := by
  have := nnn.isLt
  simp only [Statement, encode, row]
  rw [formatA_toNat (by decide)]
  omega

theorem seVxKk (x : Reg) (kk : Byte) : Statement (.seVxKk x kk) := by
  have := kk.isLt
  simp only [Statement, encode, row]
  rw [formatI_toNat (by decide)]
  omega

theorem sneVxKk (x : Reg) (kk : Byte) : Statement (.sneVxKk x kk) := by
  have := kk.isLt
  simp only [Statement, encode, row]
  rw [formatI_toNat (by decide)]
  omega

theorem seVxVy (x y : Reg) : Statement (.seVxVy x y) := by
  simp only [Statement, encode, row]
  rw [formatR_toNat (by decide)]
  simp only [BitVec.reduceToNat]
  omega

theorem ldVxKk (x : Reg) (kk : Byte) : Statement (.ldVxKk x kk) := by
  have := kk.isLt
  simp only [Statement, encode, row]
  rw [formatI_toNat (by decide)]
  omega

theorem addVxKk (x : Reg) (kk : Byte) : Statement (.addVxKk x kk) := by
  have := kk.isLt
  simp only [Statement, encode, row]
  rw [formatI_toNat (by decide)]
  omega

theorem ldVxVy (x y : Reg) : Statement (.ldVxVy x y) := by
  simp only [Statement, encode, row]
  rw [formatR_toNat (by decide)]
  simp only [BitVec.reduceToNat]
  omega

theorem orVxVy (x y : Reg) : Statement (.orVxVy x y) := by
  simp only [Statement, encode, row]
  rw [formatR_toNat (by decide)]
  simp only [BitVec.reduceToNat]
  omega

theorem andVxVy (x y : Reg) : Statement (.andVxVy x y) := by
  simp only [Statement, encode, row]
  rw [formatR_toNat (by decide)]
  simp only [BitVec.reduceToNat]
  omega

theorem xorVxVy (x y : Reg) : Statement (.xorVxVy x y) := by
  simp only [Statement, encode, row]
  rw [formatR_toNat (by decide)]
  simp only [BitVec.reduceToNat]
  omega

theorem addVxVy (x y : Reg) : Statement (.addVxVy x y) := by
  simp only [Statement, encode, row]
  rw [formatR_toNat (by decide)]
  simp only [BitVec.reduceToNat]
  omega

theorem subVxVy (x y : Reg) : Statement (.subVxVy x y) := by
  simp only [Statement, encode, row]
  rw [formatR_toNat (by decide)]
  simp only [BitVec.reduceToNat]
  omega

theorem shrVx (x : Reg) : Statement (.shrVx x) := by
  simp only [Statement, encode, row]
  rw [formatR_toNat (by decide)]
  simp only [BitVec.reduceToNat]
  omega

theorem subnVxVy (x y : Reg) : Statement (.subnVxVy x y) := by
  simp only [Statement, encode, row]
  rw [formatR_toNat (by decide)]
  simp only [BitVec.reduceToNat]
  omega

theorem shlVx (x : Reg) : Statement (.shlVx x) := by
  simp only [Statement, encode, row]
  rw [formatR_toNat (by decide)]
  simp only [BitVec.reduceToNat]
  omega

theorem sneVxVy (x y : Reg) : Statement (.sneVxVy x y) := by
  simp only [Statement, encode, row]
  rw [formatR_toNat (by decide)]
  simp only [BitVec.reduceToNat]
  omega

theorem ldINnn (nnn : Address) : Statement (.ldINnn nnn) := by
  have := nnn.isLt
  simp only [Statement, encode, row]
  rw [formatA_toNat (by decide)]
  omega

theorem jpINnn (nnn : Address) : Statement (.jpINnn nnn) := by
  have := nnn.isLt
  simp only [Statement, encode, row]
  rw [formatA_toNat (by decide)]
  omega

theorem rndVxKk (x : Reg) (kk : Byte) : Statement (.rndVxKk x kk) := by
  have := kk.isLt
  simp only [Statement, encode, row]
  rw [formatI_toNat (by decide)]
  omega

theorem drw (x y : Reg) (n : Nibble) : Statement (.drw x y n) := by
  have := n.isLt
  simp only [Statement, encode, row]
  rw [formatR_toNat (by decide)]
  omega

theorem skpVx (x : Reg) : Statement (.skpVx x) := by
  simp only [Statement, encode, row]
  rw [formatI_toNat (by decide)]
  simp only [BitVec.reduceToNat]
  omega

theorem sknpVx (x : Reg) : Statement (.sknpVx x) := by
  simp only [Statement, encode, row]
  rw [formatI_toNat (by decide)]
  simp only [BitVec.reduceToNat]
  omega

theorem ldVxDt (x : Reg) : Statement (.ldVxDt x) := by
  simp only [Statement, encode, row]
  rw [formatI_toNat (by decide)]
  simp only [BitVec.reduceToNat]
  omega

theorem ldVxK (x : Reg) : Statement (.ldVxK x) := by
  simp only [Statement, encode, row]
  rw [formatI_toNat (by decide)]
  simp only [BitVec.reduceToNat]
  omega

theorem ldDtVx (x : Reg) : Statement (.ldDtVx x) := by
  simp only [Statement, encode, row]
  rw [formatI_toNat (by decide)]
  simp only [BitVec.reduceToNat]
  omega

theorem ldStVx (x : Reg) : Statement (.ldStVx x) := by
  simp only [Statement, encode, row]
  rw [formatI_toNat (by decide)]
  simp only [BitVec.reduceToNat]
  omega

theorem addIVx (x : Reg) : Statement (.addIVx x) := by
  simp only [Statement, encode, row]
  rw [formatI_toNat (by decide)]
  simp only [BitVec.reduceToNat]
  omega

theorem ldFVx (x : Reg) : Statement (.ldFVx x) := by
  simp only [Statement, encode, row]
  rw [formatI_toNat (by decide)]
  simp only [BitVec.reduceToNat]
  omega

theorem ldHfVx (x : Reg) : Statement (.ldHfVx x) := by
  simp only [Statement, encode, row]
  rw [formatI_toNat (by decide)]
  simp only [BitVec.reduceToNat]
  omega

theorem ldBVx (x : Reg) : Statement (.ldBVx x) := by
  simp only [Statement, encode, row]
  rw [formatI_toNat (by decide)]
  simp only [BitVec.reduceToNat]
  omega

theorem ldMemVx (x : Reg) : Statement (.ldMemVx x) := by
  simp only [Statement, encode, row]
  rw [formatI_toNat (by decide)]
  simp only [BitVec.reduceToNat]
  omega

theorem ldVxMem (x : Reg) : Statement (.ldVxMem x) := by
  simp only [Statement, encode, row]
  rw [formatI_toNat (by decide)]
  simp only [BitVec.reduceToNat]
  omega

theorem ldRVx (x : Reg) : Statement (.ldRVx x) := by
  simp only [Statement, encode, row]
  rw [formatI_toNat (by decide)]
  simp only [BitVec.reduceToNat]
  omega

theorem ldVxR (x : Reg) : Statement (.ldVxR x) := by
  simp only [Statement, encode, row]
  rw [formatI_toNat (by decide)]
  simp only [BitVec.reduceToNat]
  omega

end Sys2Proof.Laws.Encoding
end

