-- ==== Sys2Proof/Tests/Slice0.lean ====
section
/-! SUPPORT. The model's own tests: ill-formed terms, words written out from the encoding tables, single steps with the
results of 95_test_vectors.md (each test names its vector), and for every statement with hypotheses a state that meets
them. -/

namespace Sys2Proof.Tests

open Sys2Proof.Machine Sys2Proof.Claims

/-! ### Well-formedness (rule R104): a `SYS` term that spells a defined word of group 0x0 is refused -/

theorem test_sys_spelling_scd_is_ill_formed : (Instr.sys 0x0C5).wellFormed = false := by decide
theorem test_sys_spelling_cls_is_ill_formed : (Instr.sys 0x3E0).wellFormed = false := by decide
theorem test_sys_spelling_ret_is_ill_formed : (Instr.sys 0x0EE).wellFormed = false := by decide
theorem test_sys_spelling_scr_is_ill_formed : (Instr.sys 0x0FB).wellFormed = false := by decide
theorem test_sys_spelling_scl_is_ill_formed : (Instr.sys 0xFFC).wellFormed = false := by decide
theorem test_sys_spelling_low_is_ill_formed : (Instr.sys 0x0FE).wellFormed = false := by decide
theorem test_sys_spelling_high_is_ill_formed : (Instr.sys 0x0FF).wellFormed = false := by decide
theorem test_sys_in_the_no_op_space_is_well_formed :
    (Instr.sys 0x0FD).wellFormed = true ∧ (Instr.sys 0x000).wellFormed = true ∧ (Instr.sys 0x0BF).wellFormed = true := by
  decide

/-! ### Decoding: words written out from 30_encoding.md rules R92 to R99 -/

/-- Group 0x0, rule R95: nibbles 0, ignored, key; and the no-op space, rule R101. -/
theorem test_decode_group_0 :
    decode 0b0000_0000_1100_0111 = .ok (.scd 7) ∧ decode 0b0000_1001_1100_0000 = .ok (.scd 0) ∧
    decode 0b0000_0000_1110_0000 = .ok .cls ∧ decode 0b0000_1010_1110_1110 = .ok .ret ∧
    decode 0b0000_0000_1111_1011 = .ok .scr ∧ decode 0b0000_0000_1111_1100 = .ok .scl ∧
    decode 0b0000_0000_1111_1110 = .ok .low ∧ decode 0b0000_0101_1111_1111 = .ok .high ∧
    decode 0b0000_0001_0010_0011 = .ok (.sys 0x123) ∧ decode 0b0000_0000_0000_0000 = .ok (.sys 0) := by decide

/-- The jumps and the call, format A; the base of 0xB is I, the word holds an address only (rule R94). -/
theorem test_decode_jumps :
    decode 0b0001_1010_1011_1100 = .ok (.jp 0xABC) ∧ decode 0b0010_0010_0000_1010 = .ok (.call 0x20A) ∧
    decode 0b1011_1111_0000_0001 = .ok (.jpINnn 0xF01) := by decide

/-- The skips: formats I and R; the low nibble of groups 5 and 9 is ignored (rules R94, R99). -/
theorem test_decode_skips :
    decode 0b0011_0011_0001_0000 = .ok (.seVxKk 3 0x10) ∧ decode 0b0100_1110_1111_0001 = .ok (.sneVxKk 0xE 0xF1) ∧
    decode 0b0101_1010_1011_1111 = .ok (.seVxVy 0xA 0xB) ∧ decode 0b1001_0001_0010_0110 = .ok (.sneVxVy 1 2) := by decide

/-- Immediate arithmetic (rule R94). -/
theorem test_decode_immediates :
    decode 0b0110_1010_0010_1010 = .ok (.ldVxKk 0xA 0x2A) ∧ decode 0b0111_0001_1111_1111 = .ok (.addVxKk 1 0xFF) := by
  decide

/-- Group 0x8, rule R96; the shifts ignore the Y field (rule R99). -/
theorem test_decode_group_8 :
    decode 0b1000_0001_0010_0000 = .ok (.ldVxVy 1 2) ∧ decode 0b1000_0001_0010_0001 = .ok (.orVxVy 1 2) ∧
    decode 0b1000_0001_0010_0010 = .ok (.andVxVy 1 2) ∧ decode 0b1000_0001_0010_0011 = .ok (.xorVxVy 1 2) ∧
    decode 0b1000_0001_0010_0100 = .ok (.addVxVy 1 2) ∧ decode 0b1000_0001_0010_0101 = .ok (.subVxVy 1 2) ∧
    decode 0b1000_0001_0010_0110 = .ok (.shrVx 1) ∧ decode 0b1000_0001_0010_0111 = .ok (.subnVxVy 1 2) ∧
    decode 0b1000_0001_1111_1110 = .ok (.shlVx 1) := by decide

/-- Groups 0xA, 0xC and 0xD (rule R94). -/
theorem test_decode_index_random_draw :
    decode 0b1010_0011_0000_0000 = .ok (.ldINnn 0x300) ∧ decode 0b1100_0001_0000_1111 = .ok (.rndVxKk 1 0x0F) ∧
    decode 0b1101_0000_0001_0010 = .ok (.drw 0 1 2) := by decide

/-- Group 0xE, rule R97. -/
theorem test_decode_group_E :
    decode 0b1110_0101_1001_1110 = .ok (.skpVx 5) ∧ decode 0b1110_0101_1010_0001 = .ok (.sknpVx 5) := by decide

/-- Group 0xF, rule R98. -/
theorem test_decode_group_F :
    decode 0b1111_0010_0000_0111 = .ok (.ldVxDt 2) ∧ decode 0b1111_0010_0000_1010 = .ok (.ldVxK 2) ∧
    decode 0b1111_0010_0001_0101 = .ok (.ldDtVx 2) ∧ decode 0b1111_0010_0001_1000 = .ok (.ldStVx 2) ∧
    decode 0b1111_0010_0001_1110 = .ok (.addIVx 2) ∧ decode 0b1111_0010_0010_1001 = .ok (.ldFVx 2) ∧
    decode 0b1111_0010_0011_0000 = .ok (.ldHfVx 2) ∧ decode 0b1111_0010_0011_0011 = .ok (.ldBVx 2) ∧
    decode 0b1111_0010_0101_0101 = .ok (.ldMemVx 2) ∧ decode 0b1111_0010_0110_0101 = .ok (.ldVxMem 2) ∧
    decode 0b1111_0010_0111_0101 = .ok (.ldRVx 2) ∧ decode 0b1111_0010_1000_0101 = .ok (.ldVxR 2) := by decide

/-- Illegal words (rule R100), among them the neighbours of legal keys; vectors X8, E8 to E10. -/
theorem test_illegal_words :
    decode 0x8ABF = .error (.unknownInstruction 0x8ABF) ∧ decode 0x8008 = .error (.unknownInstruction 0x8008) ∧
    decode 0x801D = .error (.unknownInstruction 0x801D) ∧ decode 0xE000 = .error (.unknownInstruction 0xE000) ∧
    decode 0xE19F = .error (.unknownInstruction 0xE19F) ∧ decode 0xF000 = .error (.unknownInstruction 0xF000) ∧
    decode 0xF1FF = .error (.unknownInstruction 0xF1FF) ∧ decode 0xF056 = .error (.unknownInstruction 0xF056) := by decide

/-- The table's numbering: the word of 16 bits, bit 0 the least significant; the high byte comes first in memory. -/
theorem test_table_word :
    decodeTableWord 16 0x6A2A = some (.ldVxKk 0xA 0x2A) ∧ decodeTableWord 16 0x8ABF = none ∧
    decodeBytes 0x6A 0x2A = .ok (.ldVxKk 0xA 0x2A) := by decide

/-! ### Small states and one step -/

/-- A state with some registers set. -/
def withRegs (s : State) (l : List (Reg × Byte)) : State := l.foldl (fun t p => t.setReg p.1 p.2) s

/-- A state with some bytes of memory set, upward from an address. -/
def withBytes (s : State) (a : Nat) (l : List Byte) : State := s.setMem (Memory.writeAll s.mem a l)

/-- A state with some pixels lit. -/
def withPixels (s : State) (l : List (Nat × Nat)) : State :=
  s.setFb (l.foldl (fun g p => Grid.set g p.1 p.2 true) s.fb)

/-- A state whose next event is this one, and the only one. -/
def withEvent (s : State) (e : Event) : State := s.setEnv { s.env with events := [e] }

/-- A state with these key levels. -/
def withKeys (s : State) (levels : BitVec 16) : State := s.setEnv { s.env with keyDown := levels }

/-- One step answers a next state of which the test holds. -/
def afterStep (s : State) (test : State → Bool) : Bool :=
  match step s with
  | .next t => test t
  | .fault _ => false
  | .refused _ => false

/-- The word `w`, placed at PC, runs and the test holds of the next state. -/
def afterWord (s : State) (w : Nat) (test : State → Bool) : Bool := afterStep (s.withFetchWord 16 w) test

/-- The lit pixels, row by row. -/
def litPixels (s : State) : List (Nat × Nat) :=
  (List.range 64).flatMap fun y => if Grid.row s.fb y = 0 then [] else
    ((List.range 128).filter fun x => Grid.get s.fb x y).map fun x => (x, y)

/-! ### Fetch, dispatch and faults (vectors E1 to E13, X8) -/

theorem test_E1_fetch_execute : afterWord .reset 0x6011 (fun t =>
    t.operand == 0x6011 && t.reg 0 == 0x11 && t.pc == 0x0202 && t.env.executed == some 0x6011) = true := by decide
theorem test_E2_fetch_at_last_word : afterWord (State.reset.setPc 0x0FFE) 0x6011 (fun t =>
    t.reg 0 == 0x11 && t.pc == 0x1000 && t.run == .running) = true := by decide
theorem test_E3_fetch_outside : afterStep (State.reset.setPc 0x1000) (fun t =>
    t.run == .faulted .addressOutOfRange 0x1000 && t.pc == 0x1000 && t.operand == 0) = true := by decide
theorem test_E4_fetch_across_the_end : afterStep (State.reset.setPc 0x0FFF) (fun t =>
    t.run == .faulted .addressOutOfRange 0x0FFF && t.pc == 0x0FFF && t.faultReport == some (2, 0x0FFF) &&
    t.firstOffendingAddress == some 0x1000) = true := by decide
theorem test_E5_odd_pc : afterStep ((withBytes .reset 0x200 [0x12, 0x60, 0x2A, 0x00]).setPc 0x0201) (fun t =>
    t.operand == 0x602A && t.reg 0 == 0x2A && t.pc == 0x0203) = true := by decide
theorem test_E6_injected : afterStep (withEvent .reset (.executeInjected 0x6A2A)) (fun t =>
    t.reg 0xA == 0x2A && t.operand == 0x6A2A && t.pc == 0x0200) = true := by decide
theorem test_E7_injected_skip : afterStep (withEvent .reset (.executeInjected 0x3000)) (fun t =>
    t.pc == 0x0202) = true := by decide
theorem test_E8_unknown_instruction : afterWord (withRegs .reset [(0, 1)]) 0x8008 (fun t =>
    t.run == .faulted .unknownInstruction 0x8008 && t.pc == 0x0202 && t.operand == 0x8008 && t.reg 0 == 1 &&
    t.faultReport == some (1, 0x8008) && t.env.executed == none) = true := by decide
theorem test_E13_reset : afterStep (withEvent (withRegs (State.reset.raise .unknownInstruction 0x8008) [(3, 7)]) .reset)
    (fun t => t.run == .running && t.reg 3 == 0 && t.sp == 0x0052 && t.pc == 0x0200) = true := by decide

/-! ### Control flow (vectors CF1 to CF19, X5) -/

theorem test_CF1_jp : afterWord .reset 0x1ABC (fun t => t.pc == 0x0ABC) = true := by decide
theorem test_CF3_call : afterWord (State.reset.setPc 0x0204) 0x220A (fun t =>
    t.byteAt 0x52 == 0x06 && t.byteAt 0x53 == 0x02 && t.sp == 0x0054 && t.pc == 0x020A) = true := by decide
theorem test_CF6_call_past_the_end : afterWord (State.reset.setSp 0x0FFF) 0x2300 (fun t =>
    t.run == .faulted .addressOutOfRange 0x1000 && t.sp == 0x0FFF && t.byteAt 0xFFF == 0 && t.pc == 0x0202) = true := by
  decide
theorem test_CF9_ret_on_empty_stack : afterWord (withBytes .reset 0x50 [0x34, 0x02]) 0x0AEE (fun t =>
    t.sp == 0x0050 && t.pc == 0x0234) = true := by decide
theorem test_CF11_ret_below_memory : afterWord (State.reset.setSp 1) 0x00EE (fun t =>
    t.run == .faulted .addressOutOfRange 0xFFFF && t.sp == 1 && t.pc == 0x0202) = true := by decide
theorem test_X5a_se_taken : afterWord (withRegs .reset [(3, 0x10)]) 0x3310 (fun t => t.pc == 0x0204) = true := by decide
theorem test_X5b_se_not_taken : afterWord (withRegs .reset [(3, 0x11)]) 0x3310 (fun t => t.pc == 0x0202) = true := by
  decide
theorem test_CF14_sne_not_taken : afterWord (withRegs .reset [(3, 0x10)]) 0x4310 (fun t => t.pc == 0x0202) = true := by
  decide
theorem test_CF14_sne_taken : afterWord (withRegs .reset [(3, 0x11)]) 0x4310 (fun t => t.pc == 0x0204) = true := by decide
theorem test_CF15_se_registers : afterWord (withRegs .reset [(0xA, 4), (0xB, 4)]) 0x5ABF (fun t =>
    t.pc == 0x0204) = true := by decide
theorem test_CF16_sne_registers : afterWord (withRegs .reset [(0xA, 4), (0xB, 5)]) 0x9AB0 (fun t =>
    t.pc == 0x0204) = true := by decide
theorem test_CF18_jp_i : afterWord (State.reset.setI 0x0300) 0xBFFF (fun t =>
    t.pc == 0x12FF && t.run == .running) = true := by decide
theorem test_CF19_jp_i_wraps : afterWord (State.reset.setI 0xFFFF) 0xB002 (fun t => t.pc == 0x0001) = true := by decide

/-! ### Arithmetic and logic (vectors A1 to A20, X1 to X3) -/

theorem test_X1_ld_immediate : afterWord .reset 0x6A2A (fun t => t.reg 0xA == 0x2A && t.pc == 0x0202) = true := by decide
theorem test_A1_add_immediate : afterWord (withRegs .reset [(0, 0xFF)]) 0x7001 (fun t =>
    t.reg 0 == 0 && t.reg VF == 0) = true := by decide
theorem test_A2_add_immediate_to_vf : afterWord (withRegs .reset [(VF, 0xFF)]) 0x7F02 (fun t =>
    t.reg VF == 1) = true := by decide
theorem test_A3_ld_register : afterWord (withRegs .reset [(1, 0x77)]) 0x8010 (fun t =>
    t.reg 0 == 0x77 && t.reg 1 == 0x77) = true := by decide
theorem test_A4_or : afterWord (withRegs .reset [(0, 0xF0), (1, 0x0F), (VF, 1)]) 0x8011 (fun t =>
    t.reg 0 == 0xFF && t.reg VF == 1) = true := by decide
theorem test_A5_and : afterWord (withRegs .reset [(0, 0xF0), (1, 0x3C), (VF, 1)]) 0x8012 (fun t =>
    t.reg 0 == 0x30 && t.reg VF == 1) = true := by decide
theorem test_A6_xor : afterWord (withRegs .reset [(0, 0xFF), (1, 0x0F), (VF, 1)]) 0x8013 (fun t =>
    t.reg 0 == 0xF0 && t.reg VF == 1) = true := by decide
theorem test_X2a_add_carry : afterWord (withRegs .reset [(0, 0xFF), (1, 0x02)]) 0x8014 (fun t =>
    t.reg 0 == 0x01 && t.reg VF == 1) = true := by decide
theorem test_A11_add_reads_old_vf : afterWord (withRegs .reset [(0, 0x01), (VF, 0xFF)]) 0x80F4 (fun t =>
    t.reg 0 == 0x00 && t.reg VF == 1) = true := by decide
theorem test_X3b_sub_borrow : afterWord (withRegs .reset [(0, 0x02), (1, 0x05)]) 0x8015 (fun t =>
    t.reg 0 == 0xFD && t.reg VF == 0) = true := by decide
theorem test_A14_sub_into_vf : afterWord (withRegs .reset [(VF, 3), (1, 5)]) 0x8F15 (fun t => t.reg VF == 0) = true := by
  decide
theorem test_A15_shr : afterWord (withRegs .reset [(0, 0x03), (1, 0xAA)]) 0x8016 (fun t =>
    t.reg 0 == 0x01 && t.reg 1 == 0xAA && t.reg VF == 1) = true := by decide
theorem test_A16_shr_of_vf : afterWord (withRegs .reset [(VF, 2)]) 0x8F06 (fun t => t.reg VF == 0) = true := by decide
theorem test_A17_subn_borrow : afterWord (withRegs .reset [(0, 5), (1, 3)]) 0x8017 (fun t =>
    t.reg 0 == 0xFE && t.reg VF == 0) = true := by decide
theorem test_A18_subn_equal : afterWord (withRegs .reset [(0, 9), (1, 9)]) 0x8017 (fun t =>
    t.reg 0 == 0 && t.reg VF == 1) = true := by decide
theorem test_A19_shl : afterWord (withRegs .reset [(0, 0x81), (1, 0xAA)]) 0x801E (fun t =>
    t.reg 0 == 0x02 && t.reg 1 == 0xAA && t.reg VF == 1) = true := by decide
theorem test_A20_shl_of_vf : afterWord (withRegs .reset [(VF, 0x41)]) 0x8FFE (fun t => t.reg VF == 0) = true := by decide

/-! ### Sprite blitter (vectors B3, B10) -/

/-- A sprite of 16 rows of two bytes: rows 0 and 15 hold something. -/
def spriteB10 : State :=
  withBytes (withBytes (withRegs ((State.reset.setMode .extended).setI 0x300) [(0, 120), (1, 56)]) 0x300 [0x80, 0x01])
    0x31E [0xFF, 0xFF]

theorem test_B10_big_sprite_wraps : afterWord spriteB10 0xD010 (fun t =>
    litPixels t == ((List.range 8).map (fun x => (x, 7)) ++ (List.range 8).map (fun x => (x + 120, 7)) ++
      [(7, 56), (120, 56)]) && t.reg VF == 0 && t.env.commits == 1) = true := by decide +kernel
theorem test_B3_draw_collides :
    afterWord ((withPixels (withRegs (withBytes .reset 0x300 [0xC0]) [(0, 10), (1, 10)]) [(10, 10)]).setI 0x300) 0xD011
      (fun t => litPixels t == [(11, 10)] && t.reg VF == 1) = true := by decide +kernel

/-! ### Keypad (vectors K1 to K3) -/

theorem test_K3_skp_uses_low_nibble : afterWord (withKeys (withRegs .reset [(0, 0x17)]) 0x0080) 0xE09E (fun t =>
    t.pc == 0x0204) = true := by decide
theorem test_K2_skp_key_up : afterWord (withKeys (withRegs .reset [(0, 7)]) 0xFF7F) 0xE09E (fun t =>
    t.pc == 0x0202) = true := by decide
theorem test_K1_sknp_key_down : afterWord (withKeys (withRegs .reset [(0, 7)]) 0x0080) 0xE0A1 (fun t =>
    t.pc == 0x0202) = true := by decide
theorem test_K2_sknp_key_up : afterWord (withKeys (withRegs .reset [(0, 7)]) 0xFF7F) 0xE0A1 (fun t =>
    t.pc == 0x0204) = true := by decide

/-! ### Miscellaneous and memory transfer (vectors M1 to M17, X4) -/

theorem test_M1_ld_vx_dt : afterWord (State.reset.setDt 0x2A) 0xF307 (fun t => t.reg 3 == 0x2A) = true := by decide
theorem test_M2_ld_dt_vx : afterWord (withRegs .reset [(3, 5)]) 0xF315 (fun t => t.dt == 5 && t.st == 0) = true := by
  decide
theorem test_M2_ld_st_vx : afterWord (withRegs .reset [(3, 5)]) 0xF318 (fun t => t.st == 5 && t.dt == 0) = true := by
  decide
theorem test_M3_key_wait : afterWord .reset 0xF50A (fun t => t.run == .awaitingKey 5 && t.pc == 0x0202) = true := by
  decide
theorem test_M4_key_press : afterStep (withEvent (State.reset.setRun (.awaitingKey 5)) (.keyPress 0xC)) (fun t =>
    t.reg 5 == 0x0C && t.run == .running) = true := by decide
theorem test_M8_add_i_wraps : afterWord (withRegs (State.reset.setI 0xFFFF) [(0, 2), (VF, 9)]) 0xF01E (fun t =>
    t.i == 0x0001 && t.reg VF == 9) = true := by decide
theorem test_M9_small_glyph : afterWord (withRegs .reset [(0, 0xFF)]) 0xF029 (fun t => t.i == 0x04FB) = true := by decide
theorem test_M10_large_glyph : afterWord (withRegs .reset [(0, 0xFF)]) 0xF030 (fun t => t.i == 0x09F6) = true := by decide
theorem test_X4_bcd : afterWord (withRegs (State.reset.setI 0x300) [(0, 234)]) 0xF033 (fun t =>
    t.byteAt 0x300 == 2 && t.byteAt 0x301 == 3 && t.byteAt 0x302 == 4) = true := by decide
theorem test_M13_bcd_past_the_end : afterWord (withRegs (State.reset.setI 0x0FFE) [(0, 123)]) 0xF033 (fun t =>
    t.run == .faulted .addressOutOfRange 0x1000 && t.byteAt 0xFFE == 0 && t.byteAt 0xFFF == 0) = true := by decide
theorem test_M14_block_store :
    afterWord (withRegs (State.reset.setI 0x400) [(0, 1), (1, 2), (2, 3), (3, 4)]) 0xF255 (fun t =>
      t.byteAt 0x400 == 1 && t.byteAt 0x401 == 2 && t.byteAt 0x402 == 3 && t.byteAt 0x403 == 0 && t.i == 0x400) = true := by
  decide
theorem test_M15_block_store_past_the_end : afterWord (withRegs (State.reset.setI 0x0FFF) [(0, 0xAB)]) 0xF155 (fun t =>
    t.run == .faulted .addressOutOfRange 0x1000 && t.byteAt 0xFFF == 0) = true := by decide
theorem test_M16_block_load :
    afterWord ((withBytes .reset 0x300 [0x10, 0x11, 0x12]).setI 0x300) 0xF165 (fun t =>
      t.reg 0 == 0x10 && t.reg 1 == 0x11 && t.reg 2 == 0 && t.i == 0x300) = true := by decide
theorem test_M17_rpl_store : afterWord (withRegs .reset [(0, 7), (1, 8), (2, 9), (3, 1)]) 0xF275 (fun t =>
    t.rpl.get 0 == 7 && t.rpl.get 2 == 9 && t.rpl.get 3 == 0) = true := by decide
theorem test_M17_rpl_load :
    afterWord (State.reset.setRpl (blockUpTo 15 (fun k => BitVec.ofNat 8 (k.val + 7)) (fun _ => 0))) 0xF285 (fun t =>
      t.reg 0 == 7 && t.reg 2 == 9 && t.reg 3 == 0) = true := by decide

/-! ### Mode and screen control (vectors S1 to S10), timers (T1), groups 0xA and 0xC (G1v, G2v), no-operation (E11) -/

theorem test_S1_scroll_down : afterWord (withPixels .reset [(3, 0)]) 0x00C2 (fun t =>
    litPixels t == [(3, 2)]) = true := by decide +kernel
theorem test_S2_scroll_down_loses_the_bottom : afterWord (withPixels .reset [(3, 31)]) 0x00C1 (fun t =>
    litPixels t == []) = true := by decide +kernel
theorem test_S4_scroll_right : afterWord (withPixels .reset [(0, 5), (61, 5)]) 0x00FB (fun t =>
    litPixels t == [(4, 5)]) = true := by decide +kernel
theorem test_S5_scroll_left : afterWord (withPixels .reset [(4, 5), (3, 5)]) 0x00FC (fun t =>
    litPixels t == [(0, 5)]) = true := by decide +kernel
theorem test_S6_scroll_left_extended : afterWord (withPixels (State.reset.setMode .extended) [(127, 63)]) 0x00FC
    (fun t => litPixels t == [(123, 63)]) = true := by decide +kernel
theorem test_S7_clear : afterWord (withRegs (withPixels .reset [(9, 9)]) [(VF, 1)]) 0x0AE0 (fun t =>
    litPixels t == [] && t.reg VF == 1 && t.env.commits == 0) = true := by decide +kernel
theorem test_S9_high_again : afterWord (withPixels (State.reset.setMode .extended) [(100, 60)]) 0x00FF (fun t =>
    t.mode == .extended && litPixels t == []) = true := by decide +kernel
theorem test_S10_low : afterWord (withPixels (State.reset.setMode .extended) [(100, 60)]) 0x00FE (fun t =>
    t.mode == .normal && litPixels t == []) = true := by decide +kernel
theorem test_E11_no_operation : afterWord .reset 0x00FD (fun t =>
    t.pc == 0x0202 && t.operand == 0x00FD && t.run == .running) = true := by decide
theorem test_T1_tick : afterStep (withEvent (State.reset.setDt 7) .tick) (fun t => t.dt == 6 && t.st == 0) = true := by
  decide
theorem test_G1v_ld_i : afterWord (State.reset.setI 0xFFFF) 0xAFFF (fun t => t.i == 0x0FFF) = true := by decide

/-- G2v: the mask clears whatever byte is drawn. -/
theorem test_G2v_rnd_masked : ∃ t, exec (.rndVxKk 1 0x00) State.reset = .next t ∧ t.reg 1 = 0x00 :=
  ⟨_, rfl, by simp⟩

/-! ### Witnesses: for every statement with hypotheses, a concrete state and operands that meet all of them

Each theorem is named after its statement. Where a statement has several clauses, each clause has its own boundary. -/

/-- The state a step leads to; the state itself where there is none. -/
def stepped (s : State) : State :=
  match step s with
  | .next t => t
  | .fault _ => s
  | .refused _ => s

/-- The state an instruction leads to; the state itself where there is none. -/
def executed (i : Instr) (s : State) : State :=
  match exec i s with
  | .next t => t
  | .fault _ => s
  | .refused _ => s

theorem stepped_of {s : State} {o : Host.Outcome State Fault Refusal} (h : step s = o)
    (n : ∃ t, o = .next t) : step s = .next (stepped s) := by
  obtain ⟨t, rfl⟩ := n
  simp [stepped, h]

theorem executed_of (i : Instr) (s : State) : exec i s = .next (executed i s) := by
  obtain ⟨t, h⟩ := exec_answers_next i s
  simp [executed, h]

/-! Encoding. -/

theorem witness_DecodeUndoesEncode :
    (Instr.sys 0x0FD).wellFormed = true ∧ (Instr.drw 15 15 15).wellFormed = true := by decide
theorem witness_DecodedInstructionsAreWellFormed : decode 0x00FD = .ok (.sys 0x0FD) := by decide
theorem witness_IgnoredBitsHaveNoEffect :
    decode 0x5ABF = .ok (.seVxVy 0xA 0xB) ∧
      (0x5AB0 : Word) &&& usedBits (.seVxVy 0xA 0xB) = 0x5ABF &&& usedBits (.seVxVy 0xA 0xB) := by decide
/-- One word for each clause, the first and the last illegal key of a group or its neighbour. -/
theorem witness_IllegalWordsAreExactlyThese :
    decode 0x8008 = .error (.unknownInstruction 0x8008) ∧ decode 0x800F = .error (.unknownInstruction 0x800F) ∧
    decode 0xE09D = .error (.unknownInstruction 0xE09D) ∧ decode 0xFF84 = .error (.unknownInstruction 0xFF84) := by decide

/-! Events. -/

/-- A running core with `LD VA,0x2A` at the reset PC and an Execute planned, then a Tick. -/
def planned : State := (withBytes .reset 0x200 [0x6A, 0x2A]).setEnv { State.reset.env with events := [.execute, .tick] }

theorem witness_StepRunsTheDecodedInstruction :
    planned.run = .running ∧ NextEventIs planned .execute ∧ planned.pc.toNat + 1 ≤ 0xFFF ∧
      decode (wordAtPc planned) = .ok (.ldVxKk 0xA 0x2A) :=
  ⟨rfl, .inl rfl, by decide, by decide⟩
/-- With nothing planned the next event is Execute, and the last word of memory can be fetched. -/
theorem witness_StepRunsTheDecodedInstruction_at_the_end :
    NextEventIs (State.reset.setPc 0x0FFE) .execute ∧ (State.reset.setPc 0x0FFE).pc.toNat + 1 ≤ 0xFFF ∧
      decode (wordAtPc (State.reset.setPc 0x0FFE)) = .ok (.sys 0) :=
  ⟨.inr ⟨rfl, rfl⟩, by decide, by decide⟩
/-- What a planned step leads to puts out its word: the first clause of `ReportedAs`. -/
theorem witness_ReportedAs_completed :
    exec (.ldVxKk 0xA 0x2A) (foundAfterFetch planned) = .next (executed (.ldVxKk 0xA 0x2A) (foundAfterFetch planned)) ∧
      (executed (.ldVxKk 0xA 0x2A) (foundAfterFetch planned)).run = .running := ⟨rfl, rfl⟩
/-- The second clause of `ReportedAs`: an instruction that faults. -/
theorem witness_ReportedAs_faulted :
    (executed .ret (foundAfterFetch (planned.setSp 1))).run = .faulted .addressOutOfRange 0xFFFF := by decide

theorem witness_IllegalWordRaisesUnknownInstruction_fetched :
    (withBytes .reset 0x200 [0x8A, 0xBF]).run = .running ∧ NextEventIs (withBytes .reset 0x200 [0x8A, 0xBF]) .execute ∧
      (withBytes .reset 0x200 [0x8A, 0xBF]).pc.toNat + 1 ≤ 0xFFF ∧
      decode (wordAtPc (withBytes .reset 0x200 [0x8A, 0xBF])) = .error (.unknownInstruction 0x8ABF) :=
  ⟨rfl, .inr ⟨rfl, rfl⟩, by decide, by decide⟩
theorem witness_IllegalWordRaisesUnknownInstruction_injected :
    (withEvent .reset (.executeInjected 0x8ABF)).run = .running ∧
      NextEventIs (withEvent .reset (.executeInjected 0x8ABF)) (.executeInjected 0x8ABF) ∧
      decode 0x8ABF = .error (.unknownInstruction 0x8ABF) := ⟨rfl, .inl rfl, by decide⟩
theorem witness_FetchPastEndOfMemoryFaults :
    (State.reset.setPc 0x0FFF).run = .running ∧ NextEventIs (State.reset.setPc 0x0FFF) .execute ∧
      0xFFF < (State.reset.setPc 0x0FFF).pc.toNat + 1 := ⟨rfl, .inr ⟨rfl, rfl⟩, by decide⟩
theorem witness_InjectedWordRunsWithoutFetch :
    (withEvent .reset (.executeInjected 0x3000)).run = .running ∧
      NextEventIs (withEvent .reset (.executeInjected 0x3000)) (.executeInjected 0x3000) ∧
      decode 0x3000 = .ok (.seVxKk 0 0) := ⟨rfl, .inl rfl, by decide⟩
theorem witness_HeldOrStoppedCoreTakesNoExecute_awaiting :
    NextEventIs (State.reset.setRun (.awaitingKey 15)) .execute ∧
      (State.reset.setRun (.awaitingKey 15)).run = .awaitingKey 15 := ⟨.inr ⟨rfl, rfl⟩, rfl⟩
theorem witness_HeldOrStoppedCoreTakesNoExecute_faulted :
    NextEventIs (withEvent (State.reset.raise .addressOutOfRange 0x1000) (.executeInjected 0x00E0)) (.executeInjected 0x00E0) ∧
      (withEvent (State.reset.raise .addressOutOfRange 0x1000) (.executeInjected 0x00E0)).run =
        .faulted .addressOutOfRange 0x1000 := ⟨.inl rfl, rfl⟩
theorem witness_TickCountsDown :
    (withEvent (State.reset.setDt 1) .tick).run = .running ∧ NextEventIs (withEvent (State.reset.setDt 1) .tick) .tick :=
  ⟨rfl, .inl rfl⟩
theorem witness_UnawaitedEventsChangeNothing_tick :
    (withEvent (State.reset.setRun (.awaitingKey 0)) .tick).run ≠ .running ∧
      NextEventIs (withEvent (State.reset.setRun (.awaitingKey 0)) .tick) .tick := ⟨by decide, .inl rfl⟩
theorem witness_UnawaitedEventsChangeNothing_key :
    (∀ x, (withEvent .reset (.keyPress 15)).run ≠ .awaitingKey x) ∧
      NextEventIs (withEvent .reset (.keyPress 15)) (.keyPress 15) := ⟨by decide, .inl rfl⟩
/-- Two ticks and then an Execute, just after an Execute has put out its word. -/
def twoTicks : State := State.reset.setEnv { State.reset.env with events := [.tick, .tick, .execute], executed := some 0x6011 }

theorem witness_TimersStopAtZero :
    twoTicks.run = .running ∧ twoTicks.env.events = List.replicate 2 .tick ++ [.execute] := ⟨rfl, rfl⟩
theorem witness_KeyPressCompletesTheWait :
    (withEvent (State.reset.setRun (.awaitingKey 15)) (.keyPress 15)).run = .awaitingKey 15 ∧
      NextEventIs (withEvent (State.reset.setRun (.awaitingKey 15)) (.keyPress 15)) (.keyPress 15) := ⟨rfl, .inl rfl⟩
theorem witness_ResetEventRestoresResetState :
    NextEventIs (withEvent (State.reset.raise .unknownInstruction 0x8ABF) .reset) .reset := .inl rfl
theorem witness_LoadWritesItsBytes :
    Memory.wf (withEvent .reset (.load 0xFFE [1, 0])).mem = true ∧
      (withEvent .reset (.load 0xFFE [1, 0])).env.launch = true ∧
      NextEventIs (withEvent .reset (.load 0xFFE [1, 0])) (.load 0xFFE [1, 0]) ∧
      0xFFE + [(1 : Byte), 0].length ≤ 4096 := ⟨rfl, rfl, .inl rfl, by decide⟩
theorem witness_LoadIsRefusedOutsideItsDomain_late :
    NextEventIs (withEvent .reset (.load 0 [])).endLaunch (.load 0 []) ∧
      (withEvent .reset (.load 0 [])).endLaunch.env.launch = false := ⟨.inl rfl, rfl⟩
theorem witness_LoadIsRefusedOutsideItsDomain_long :
    NextEventIs (withEvent .reset (.load 0xFFF [1, 2])) (.load 0xFFF [1, 2]) ∧
      (withEvent .reset (.load 0xFFF [1, 2])).env.launch = true ∧ 4096 < 0xFFF + [(1 : Byte), 2].length :=
  ⟨.inl rfl, rfl, by decide⟩
theorem witness_PlacedWordRunsNext :
    Memory.wf planned.mem = true ∧ decode 0xD012 = .ok (.drw 0 1 2) ∧
      planned.pc.toNat + 1 ≤ 0xFFF ∧ ¬ (planned.setPc 0x0FFF).pc.toNat + 1 ≤ 0xFFF := by decide

/-! Stack, memory transfer, no-operation. -/

/-- A state with the stack at the last word of memory. -/
def highStack : State := State.reset.setSp 0x0FFE

theorem witness_CallPushesReturnAddress : Memory.wf highStack.mem = true ∧ highStack.sp.toNat + 1 ≤ 0xFFF := by decide
theorem witness_ReturnPopsPc :
    2 ≤ (State.reset.setSp 2).sp.toNat ∧ (State.reset.setSp 0x1000).sp.toNat ≤ 0x1000 := by decide
theorem witness_ReturnUndoesCall :
    Memory.wf highStack.mem = true ∧ highStack.sp.toNat + 1 ≤ 0xFFF ∧
      exec (.call 0x300) highStack = .next (executed (.call 0x300) highStack) ∧
      ((executed (.call 0x300) highStack).setReg 0 9).sp = (executed (.call 0x300) highStack).sp ∧
      ((executed (.call 0x300) highStack).setReg 0 9).byteAt 0xFFE = (executed (.call 0x300) highStack).byteAt 0xFFE ∧
      ((executed (.call 0x300) highStack).setReg 0 9).byteAt 0xFFF = (executed (.call 0x300) highStack).byteAt 0xFFF :=
  ⟨rfl, by decide, rfl, rfl, rfl, rfl⟩
theorem witness_BcdStoresThreeDigits :
    Memory.wf (State.reset.setI 0x0FFD).mem = true ∧ (State.reset.setI 0x0FFD).i.toNat + 2 ≤ 0xFFF := by decide
theorem witness_BlockStore :
    Memory.wf (State.reset.setI 0x0FF0).mem = true ∧ (State.reset.setI 0x0FF0).i.toNat + (15 : Reg).val ≤ 0xFFF := by decide
theorem witness_BlockLoad : (State.reset.setI 0x0FF0).i.toNat + (15 : Reg).val ≤ 0xFFF := by decide
/-- V1 = 5, to be stored at the top of memory; `laterLoad` is that store's state with V cleared and another byte changed. -/
def blockToStore : State := withRegs (State.reset.setI 0x0FFD) [(1, 5)]
def laterLoad : State := withBytes ((executed (.ldMemVx 2) blockToStore).setV (Vector.replicate 16 0)) 0x300 [9]

theorem witness_BlockLoadUndoesBlockStore :
    Memory.wf blockToStore.mem = true ∧ blockToStore.i.toNat + (2 : Reg).val ≤ 0xFFF ∧
      exec (.ldMemVx 2) blockToStore = .next (executed (.ldMemVx 2) blockToStore) ∧ laterLoad.i = blockToStore.i ∧
      (∀ r : Reg, r ≤ 2 → laterLoad.byteAt (blockToStore.i.toNat + r.val) =
        (executed (.ldMemVx 2) blockToStore).byteAt (blockToStore.i.toNat + r.val)) :=
  ⟨by decide, by decide, executed_of _ _, rfl, by decide⟩
/-- The last word of memory can be fetched. -/
theorem witness_StoredBytesAreFetched_fetch : (State.reset.setPc 0x0FFE).pc.toNat + 1 ≤ 0xFFF := by decide
/-- A block store to 0x1FF, 0x200 and 0x201 covers the word at PC. -/
theorem witness_StoredBytesAreFetched_block :
    Memory.wf (State.reset.setI 0x1FF).mem = true ∧ (State.reset.setI 0x1FF).i.toNat + (2 : Reg).val ≤ 0xFFF ∧
      (State.reset.setI 0x1FF).pc.toNat = (State.reset.setI 0x1FF).i.toNat + (1 : Reg).val ∧
      (2 : Reg).val = (1 : Reg).val + 1 ∧ (2 : Reg) ≤ 2 ∧
      exec (.ldMemVx 2) (State.reset.setI 0x1FF) = .next (executed (.ldMemVx 2) (State.reset.setI 0x1FF)) :=
  ⟨rfl, by decide, by decide, by decide, by decide, executed_of _ _⟩
/-- The three digits from PC, and from the byte before it, at the end of memory. -/
theorem witness_StoredBytesAreFetched_digits :
    Memory.wf (State.reset.setI 0x0FFD).mem = true ∧ (State.reset.setI 0x0FFD).i.toNat + 2 ≤ 0xFFF ∧
      exec (.ldBVx 0) (State.reset.setI 0x0FFD) = .next (executed (.ldBVx 0) (State.reset.setI 0x0FFD)) ∧
      ((State.reset.setI 0x0FFD).setPc 0x0FFD).pc.toNat = ((State.reset.setI 0x0FFD).setPc 0x0FFD).i.toNat ∧
      ((State.reset.setI 0x0FFD).setPc 0x0FFE).pc.toNat = ((State.reset.setI 0x0FFD).setPc 0x0FFE).i.toNat + 1 :=
  ⟨rfl, by decide, executed_of _ _, by decide, by decide⟩
/-- A call to the address its own return address is stored at. -/
theorem witness_StoredBytesAreFetched_call :
    Memory.wf highStack.mem = true ∧ highStack.sp.toNat + 1 ≤ 0xFFF ∧ (0xFFE : Address).toNat = highStack.sp.toNat ∧
      exec (.call 0xFFE) highStack = .next (executed (.call 0xFFE) highStack) :=
  ⟨rfl, by decide, by decide, executed_of _ _⟩
theorem witness_SysIsNoOperation :
    (0x00FD : Word).toNat / 4096 = 0 ∧ (0x00FD : Word).toNat / 16 % 16 ≠ 0xC ∧
      (0x00FD : Word).toNat % 256 ∉ [0xE0, 0xEE, 0xFB, 0xFC, 0xFE, 0xFF] := by decide

/-! The sprite blitter. -/

/-- One sprite byte 0x80 at 0x0FFF, the last byte of memory, to be drawn at (0, 0). -/
def lastByteSprite : State := (withBytes .reset 0xFFF [0x80]).setI 0xFFF

theorem witness_DrawXorsTheWrappedSprite_small : SpriteFits lastByteSprite 1 := .inr (by decide)
theorem witness_DrawXorsTheWrappedSprite_big : SpriteFits ((State.reset.setMode .extended).setI 0x0FE0) 0 :=
  .inr (by decide)
theorem witness_DrawXorsTheWrappedSprite_no_rows : SpriteFits (State.reset.setI 0xFFFF) 0 := .inl (by decide)
/-- The clause for VF = 1: the pixel under the sprite's one set bit is lit. -/
theorem witness_DrawXorsTheWrappedSprite_collision :
    InWindow (withPixels lastByteSprite [(0, 0)]) 0 0 ∧ spriteBit (withPixels lastByteSprite [(0, 0)]) 0 1 1 0 0 = true ∧
      Grid.get (withPixels lastByteSprite [(0, 0)]).fb 0 0 = true := by
  unfold InWindow
  decide
/-- The clause for VF = 0: a dark grid. -/
theorem witness_DrawXorsTheWrappedSprite_no_collision :
    ∀ px py, InWindow lastByteSprite px py → spriteBit lastByteSprite 0 1 1 px py = true →
      Grid.get lastByteSprite.fb px py = false := fun px py _ _ => Grid.get_dark px py
theorem witness_DrawLeavesTheRest : SpriteFits lastByteSprite 1 := .inr (by decide)
theorem witness_DrawOfNoRowsOnlyClearsVf : (State.reset.setI 0xFFFF).mode = .normal := rfl
theorem witness_DoubleDrawRestoresTheGrid : SpriteFits lastByteSprite 1 ∧ (0 : Reg) ≠ VF ∧ (1 : Reg) ≠ VF :=
  ⟨.inr (by decide), by decide, by decide⟩
/-- The clause for VF = 1: the pixel was dark before the first draw. -/
theorem witness_DoubleDrawRestoresTheGrid_dark :
    InWindow lastByteSprite 0 0 ∧ spriteBit lastByteSprite 0 1 1 0 0 = true ∧ Grid.get lastByteSprite.fb 0 0 = false := by
  unfold InWindow
  decide
/-- The same sprite in Extended mode, with every pixel of the grid lit. -/
def litGrid : State := (lastByteSprite.setMode .extended).setFb (Vector.replicate 64 (BitVec.allOnes 128))

/-- The clause for VF = 0: every pixel of the window is lit before the first draw, and the sprite has a set bit. -/
theorem witness_DoubleDrawRestoresTheGrid_lit :
    SpriteFits litGrid 1 ∧ spriteBit litGrid 0 1 1 0 0 = true ∧
      ∀ px py, InWindow litGrid px py → spriteBit litGrid 0 1 1 px py = true → Grid.get litGrid.fb px py = true := by
  refine ⟨.inr (by decide), by decide, fun px py h _ => ?_⟩
  have hx : px < 128 := h.1
  have hy : py < 64 := h.2
  show Grid.get (Vector.replicate 64 (BitVec.allOnes 128)) px py = true
  unfold Grid.get
  rw [dif_pos hy, Vector.getElem_replicate, BitVec.getLsbD_allOnes]
  exact decide_eq_true hx

/-! Faults and the whole machine. -/

/-- Each clause at the edge of its range, and just past an earlier clause's range. -/
theorem witness_AddressFaultConditions :
    0xFFF < (State.reset.setSp 0x0FFF).sp.toNat + 1 ∧ 0xFFF < (State.reset.setSp 0x1000).sp.toNat ∧
    (State.reset.setSp 1).sp.toNat < 2 ∧ 0x1000 < (State.reset.setSp 0x1001).sp.toNat ∧
    0xFFF < (State.reset.setI 0x0FFE).i.toNat + 2 ∧ 0xFFF < (State.reset.setI 0x0FFF).i.toNat + (1 : Reg).val := by decide
theorem witness_AddressFaultConditions_sprite :
    ¬ SpriteFits (State.reset.setI 0x0FFF) 2 ∧ ¬ SpriteFits ((State.reset.setMode .extended).setI 0x0FE1) 0 := by
  unfold SpriteFits
  decide
/-- The converse: a running core that a `RET` with SP = 1 makes fault. -/
theorem witness_AddressFaultConditions_converse :
    (State.reset.setSp 1).run = .running ∧ exec .ret (State.reset.setSp 1) = .next (executed .ret (State.reset.setSp 1)) ∧
      (executed .ret (State.reset.setSp 1)).run = .faulted .addressOutOfRange 0xFFFF :=
  ⟨rfl, executed_of _ _, by decide⟩
/-- A `RET` with SP = 0 faults. -/
theorem witness_FaultsArePrecise :
    ((State.reset.setSp 0).withFetchWord 16 0x00EE).run = .running ∧
      (stepped ((State.reset.setSp 0).withFetchWord 16 0x00EE)).run = .faulted .addressOutOfRange 0xFFFF ∧
      step ((State.reset.setSp 0).withFetchWord 16 0x00EE) =
        .next (stepped ((State.reset.setSp 0).withFetchWord 16 0x00EE)) :=
  ⟨rfl, by decide, stepped_of rfl ⟨_, rfl⟩⟩

/-- For each clause, an instruction that answers a next state in which that piece of state has changed. -/
theorem witness_EachStateHasItsWriters :
    exec (.ldINnn 0x300) .reset = .next (executed (.ldINnn 0x300) .reset) ∧
    (executed (.ldINnn 0x300) .reset).i ≠ State.reset.i ∧ (executed (.call 0x300) .reset).sp ≠ State.reset.sp ∧
    (executed (.ldDtVx 0) (State.reset.setDt 1)).dt ≠ (State.reset.setDt 1).dt ∧
    (executed (.ldStVx 0) (State.reset.setSt 1)).st ≠ (State.reset.setSt 1).st ∧
    (executed (.ldRVx 0) (State.reset.setReg 0 1)).rpl ≠ (State.reset.setReg 0 1).rpl ∧
    (executed .high .reset).mode ≠ State.reset.mode ∧ (executed (.call 0x300) .reset).mem ≠ State.reset.mem ∧
    (executed (.ldVxK 0) .reset).run ≠ State.reset.run ∧
    (executed .ret (State.reset.setSp 1)).run ≠ (State.reset.setSp 1).run ∧
    (executed (.rndVxKk 0 0) .reset).env.draws ≠ State.reset.env.draws ∧
    (executed (.drw 0 0 1) .reset).env.commits ≠ State.reset.env.commits := ⟨executed_of _ _, by decide +kernel⟩
theorem witness_EachStateHasItsWriters_grid :
    (executed .cls (withPixels .reset [(1, 1)])).fb ≠ (withPixels .reset [(1, 1)]).fb := by decide +kernel
theorem witness_OnlyNamedRegistersChange :
    exec (.ldVxKk 3 7) .reset = .next (executed (.ldVxKk 3 7) .reset) ∧
      (executed (.ldVxKk 3 7) .reset).reg 3 ≠ State.reset.reg 3 := ⟨rfl, by decide⟩
theorem witness_OnlyControlFlowMovesPc :
    exec (.jp 0x300) .reset = .next (executed (.jp 0x300) .reset) ∧
      (executed (.jp 0x300) .reset).pc ≠ State.reset.pc ∧
      (executed (.seVxKk 0 0) .reset).pc = State.reset.pc + 2 := ⟨rfl, by decide, by decide⟩
/-- For `SKP` the levels must agree, and the schedules may differ; for `RND` the draws. -/
theorem witness_BoundaryReachesStateThroughInputsOnly :
    exec (.skpVx 3) .reset = .next (executed (.skpVx 3) .reset) ∧
      { State.reset.env with events := [.tick], commits := 4 }.keyDown = State.reset.env.keyDown ∧
      exec (.rndVxKk 3 1) .reset = .next (executed (.rndVxKk 3 1) .reset) ∧
      { State.reset.env with events := [.tick], keyDown := 9 }.draws = State.reset.env.draws := ⟨rfl, rfl, rfl, rfl⟩

/-- Each clause of the fault report: both faults, and a core that has not faulted. -/
theorem witness_OutputsShowFaultAndSound :
    (State.reset.raise .unknownInstruction 0x8ABF).run = .faulted .unknownInstruction 0x8ABF ∧
      (State.reset.raise .addressOutOfRange 0x1000).run = .faulted .addressOutOfRange 0x1000 ∧
      ∀ k a, (State.reset.setRun (.awaitingKey 3)).run ≠ .faulted k a :=
  ⟨rfl, rfl, fun _ _ h => by cases h⟩
/-- The address clauses at the edge: an address fault that carries 0x0FFF, and one that carries 0x1000. -/
theorem witness_OutputsShowFaultAndSound_addresses :
    (State.reset.raise .addressOutOfRange 0x0FFF).run = .faulted .addressOutOfRange 0x0FFF ∧
      (0x0FFF : Word).toNat ≤ 0xFFF ∧ 0xFFF < (0x1000 : Word).toNat := by decide
/-- Both clauses on ST: `LD ST,Vx`, and an instruction that is not. -/
theorem witness_NoInstructionReadsSoundTimerOrOperand :
    exec (.ldStVx 3) .reset = .next (executed (.ldStVx 3) .reset) ∧ (∃ x, Instr.ldStVx 3 = .ldStVx x) ∧
      exec .cls .reset = .next (executed .cls .reset) ∧ ∀ x, Instr.cls ≠ .ldStVx x :=
  ⟨executed_of _ _, ⟨3, rfl⟩, executed_of _ _, fun _ h => by cases h⟩

/-- A state with the invariant that is not the reset state: a word is in memory, a register is set and events are planned. -/
theorem planned_invariant : Inv (planned.setReg 3 7) where
  memory_canonical := by decide
  outside_window_dark := fun x y _ => Grid.get_dark x y
  sp_even := by decide
  unknown_info := fun _ h => by cases h
  address_info := fun _ h => by cases h
theorem witness_EveryStepKeepsTheInvariant :
    Inv (planned.setReg 3 7) ∧ step (planned.setReg 3 7) = .next (stepped (planned.setReg 3 7)) :=
  ⟨planned_invariant, stepped_of rfl ⟨_, rfl⟩⟩

end Sys2Proof.Tests
end

/-! ## What one instruction can do

`exec_effect` classifies the next state of every instruction by the piece of state it writes; which instruction writes
which piece, what every instruction leaves alone and what the invariant needs are read off that classification. -/

namespace Sys2Proof.Proofs

open Sys2Proof.Machine Sys2Proof.Claims

/-- The six instructions that access memory (rule R282). -/
def AccessesMemory (i : Instr) : Prop :=
  (∃ nnn, i = .call nnn) ∨ i = .ret ∨ (∃ x y n, i = .drw x y n) ∨ ∃ x, i = .ldBVx x ∨ i = .ldMemVx x ∨ i = .ldVxMem x

/-- The instructions that write I (rule R23). -/
def WritesIndex (i : Instr) : Prop := (∃ nnn, i = .ldINnn nnn) ∨ ∃ x, i = .addIVx x ∨ i = .ldFVx x ∨ i = .ldHfVx x

/-- The skips (rule R148). -/
def IsSkip (i : Instr) : Prop :=
  (∃ x kk, i = .seVxKk x kk ∨ i = .sneVxKk x kk) ∨ (∃ x y, i = .seVxVy x y ∨ i = .sneVxVy x y) ∨
    ∃ x, i = .skpVx x ∨ i = .sknpVx x

/-- The two jumps that only write PC (rules R140, R147). -/
def IsJump (i : Instr) : Prop := ∃ nnn, i = .jp nnn ∨ i = .jpINnn nnn

/-- The instructions that rewrite the active window and nothing else (rules R241 to R244). -/
def RewritesWindow (i : Instr) : Prop := (∃ n, i = .scd n) ∨ i = .cls ∨ i = .scr ∨ i = .scl

/-- The two stores of bytes from I upward (rules R218, R219). -/
def StoresFromIndex (i : Instr) : Prop := ∃ x, i = .ldBVx x ∨ i = .ldMemVx x

/-- Every pixel outside the active window of mode `m` is in `g` what it is in `old` (rule R34). -/
def OnlyWindowDiffers (m : Mode) (old g : Grid) : Prop :=
  ∀ x y, (m.width ≤ x ∨ m.height ≤ y) → Grid.get g x y = Grid.get old x y

theorem onlyWindowDiffers_inWindow (m : Mode) (g : Grid) (new : Nat → Row) : OnlyWindowDiffers m g (g.inWindow m new) :=
  fun x y h => (Grid.get_inWindow m g new x y).trans (if_neg (by omega))

/-- The coordinates of every sprite pixel are reduced into the active window (rule R182). -/
theorem mem_spritePixels_inWindow {m : Mode} {mem : Memory} {base x0 y0 rows bpr : Nat} {p : SpritePixel}
    (h : p ∈ spritePixels m mem base x0 y0 rows bpr) : p.x < m.width ∧ p.y < m.height := by
  simp only [spritePixels, List.mem_flatMap, List.mem_map] at h
  obtain ⟨r, -, b, -, c, -, rfl⟩ := h
  exact ⟨Nat.mod_lt _ m.width_pos, Nat.mod_lt _ m.height_pos⟩

/-- Drawing pixels of the active window, in order, leaves the pixels outside it. -/
theorem onlyWindowDiffers_foldl_xorPixel (m : Mode) (ps : List SpritePixel)
    (hps : ∀ p ∈ ps, p.x < m.width ∧ p.y < m.height) (acc : Grid × Bool) :
    OnlyWindowDiffers m acc.1 (ps.foldl xorPixel acc).1 := by
  induction ps generalizing acc with
  | nil => exact fun _ _ _ => rfl
  | cons p ps ih =>
    intro x y hxy
    obtain ⟨hx, hy⟩ := hps p List.mem_cons_self
    have hw := m.width_le
    have hh := m.height_le
    calc Grid.get (ps.foldl xorPixel (xorPixel acc p)).1 x y
        = Grid.get (xorPixel acc p).1 x y := ih (fun q hq => hps q (List.mem_cons_of_mem p hq)) _ x y hxy
      _ = Grid.get acc.1 x y := by rw [get_xorPixel acc p x y (by omega) (by omega), if_neg (by omega)]

theorem onlyWindowDiffers_draw (s : State) (x y : Reg) (n : Nibble) :
    OnlyWindowDiffers s.mode s.fb (s.fb.draw (s.drawnPixels x y n)).1 :=
  onlyWindowDiffers_foldl_xorPixel s.mode _ (fun _ => mem_spritePixels_inWindow) (s.fb, false)

/-- `Effect s i t`: `t` differs from `s` as an instruction of the kind of `i` may make it differ. -/
inductive Effect (s : State) : Instr → State → Prop
  /-- Nothing changes: `SYS`, or a skip not taken. -/
  | nothing {i} : Effect s i s
  /-- An access outside memory is reported with an address outside memory (rules R282, R283). -/
  | addressFault {i} {a : Word} (hi : AccessesMemory i) (ha : 0x1000 ≤ a.toNat) :
      Effect s i (s.raise .addressOutOfRange a)
  /-- V registers the instruction may write. -/
  | registers {i v} (hv : ∀ r, v.get r ≠ s.reg r → mayWriteReg i r) : Effect s i (s.setV v)
  /-- A drawn byte goes to the destination. -/
  | random x kk b : Effect s (.rndVxKk x kk) (s.takeDraw.setReg x b)
  | index {i} (hi : WritesIndex i) (a : Word) : Effect s i (s.setI a)
  | skip {i} (hi : IsSkip i) : Effect s i (s.setPc (s.pc + 2))
  | jump {i} (hi : IsJump i) (a : Word) : Effect s i (s.setPc a)
  | call nnn a : Effect s (.call nnn) ((s.push s.pc).setPc a)
  | ret a : Effect s .ret ((s.setSp (s.sp - 2)).setPc a)
  | window {i g} (hi : RewritesWindow i) (hg : OnlyWindowDiffers s.mode s.fb g) : Effect s i (s.setFb g)
  | displayMode {i} (hi : i = .low ∨ i = .high) (m : Mode) : Effect s i (s.setDisplayMode m)
  /-- A drawn grid, the collision flag and one commit. -/
  | draw x y n {g} (flag : Byte) (hg : OnlyWindowDiffers s.mode s.fb g) :
      Effect s (.drw x y n) ((s.setFb g).setReg VF flag).emitCommit
  | keyWait x : Effect s (.ldVxK x) (s.setRun (.awaitingKey x))
  | delayTimer x b : Effect s (.ldDtVx x) (s.setDt b)
  | soundTimer x b : Effect s (.ldStVx x) (s.setSt b)
  | rplStore x bank : Effect s (.ldRVx x) (s.setRpl bank)
  /-- Stored bytes leave memory canonical where it was (log 9). -/
  | bytes {i m} (hi : StoresFromIndex i) (hm : Memory.wf s.mem = true → Memory.wf m = true) : Effect s i (s.setMem m)

namespace Effect

variable {s : State} {i : Instr}

theorem of_setReg (x : Reg) (b : Byte) (hx : mayWriteReg i x) : Effect s i (s.setReg x b) := by
  refine registers (v := (s.setReg x b).v) fun r hr => ?_
  by_cases hrx : r = x
  · exact hrx ▸ hx
  · exact absurd (s.setReg_reg_other b hrx) hr

theorem of_setRegThenFlag (x : Reg) (result flag : Byte) (hx : ∀ r, r = x ∨ r = VF → mayWriteReg i r) :
    Effect s i (s.setRegThenFlag x result flag) := by
  refine registers (v := (s.setRegThenFlag x result flag).v) fun r hr => hx r ?_
  by_contra hne
  rw [not_or] at hne
  exact hr ((s.setRegThenFlag_reg x r result flag).trans (by rw [if_neg hne.2, if_neg hne.1]))

theorem of_blockUpTo (x : Reg) (new : Fin 16 → Byte) (hx : ∀ r, r ≤ x → mayWriteReg i r) :
    Effect s i (s.setV (blockUpTo x new s.reg)) := by
  refine registers fun r hr => hx r ?_
  by_contra hle
  exact hr ((blockUpTo_get x new s.reg r).trans (if_neg hle))

theorem of_skipIf (hi : IsSkip i) (c : Bool) : Effect s i (s.skipIf c) := by
  cases c with
  | true => exact skip hi
  | false => exact nothing

theorem of_ifInMemory {base : Word} {len : Nat} {done : State} (hi : AccessesMemory i) (hdone : Effect s i done) :
    Effect s i (s.ifInMemory base len done) := by
  obtain ⟨-, h⟩ | ⟨-, h⟩ := s.ifInMemory_cases base len done
  · rwa [h]
  · rw [h]
    refine addressFault hi ?_
    rw [firstOutside_toNat]
    exact Nat.le_max_right ..

end Effect

/-- The address a `RET` cannot read lies outside memory: SP − 1 or SP − 2 wraps, or SP − 1 is past the end (rule R142). -/
theorem popFault_outside {sp a : Word} (h : popFault sp = some a) : 0x1000 ≤ a.toNat := by
  unfold popFault at h
  split at h
  · cases h
    bv_omega
  · split at h
    · cases h
      bv_omega
    · cases h

theorem exec_ret_of_popFault {s : State} {a : Word} (h : popFault s.sp = some a) :
    exec .ret s = .next (s.raise .addressOutOfRange a) := by
  simp only [exec, execRet, h]

theorem exec_ret_of_popFault_none {s : State} (h : popFault s.sp = none) :
    exec .ret s = .next ((s.setSp (s.sp - 2)).setPc (s.byteAt (s.sp.toNat - 1) ++ s.byteAt (s.sp.toNat - 2))) := by
  simp only [exec, execRet, h]

/-- Every next state an instruction answers is one of the effects above. -/
theorem exec_effect {i : Instr} {s t : State} (h : exec i s = .next t) : Effect s i t := by
  cases i with
  | ret =>
    cases hp : popFault s.sp with
    | none => cases (exec_ret_of_popFault_none hp).symm.trans h; exact .ret _
    | some a =>
      cases (exec_ret_of_popFault hp).symm.trans h
      exact .addressFault (.inr (.inl rfl)) (popFault_outside hp)
  | scd n => cases h; exact .window (.inl ⟨n, rfl⟩) (onlyWindowDiffers_inWindow _ _ _)
  | cls => cases h; exact .window (.inr (.inl rfl)) (onlyWindowDiffers_inWindow _ _ _)
  | scr => cases h; exact .window (.inr (.inr (.inl rfl))) (onlyWindowDiffers_inWindow _ _ _)
  | scl => cases h; exact .window (.inr (.inr (.inr rfl))) (onlyWindowDiffers_inWindow _ _ _)
  | low => cases h; exact .displayMode (.inl rfl) _
  | high => cases h; exact .displayMode (.inr rfl) _
  | sys nnn => cases h; exact .nothing
  | jp nnn => cases h; exact .jump ⟨nnn, .inl rfl⟩ _
  | jpINnn nnn => cases h; exact .jump ⟨nnn, .inr rfl⟩ _
  | call nnn => cases h; exact .of_ifInMemory (.inl ⟨nnn, rfl⟩) (.call nnn _)
  | seVxKk x kk => cases h; exact .of_skipIf (.inl ⟨x, kk, .inl rfl⟩) _
  | sneVxKk x kk => cases h; exact .of_skipIf (.inl ⟨x, kk, .inr rfl⟩) _
  | seVxVy x y => cases h; exact .of_skipIf (.inr (.inl ⟨x, y, .inl rfl⟩)) _
  | sneVxVy x y => cases h; exact .of_skipIf (.inr (.inl ⟨x, y, .inr rfl⟩)) _
  | skpVx x => cases h; exact .of_skipIf (.inr (.inr ⟨x, .inl rfl⟩)) _
  | sknpVx x => cases h; exact .of_skipIf (.inr (.inr ⟨x, .inr rfl⟩)) _
  | ldVxKk x | addVxKk x | ldVxVy x | orVxVy x | andVxVy x | xorVxVy x | ldVxDt x =>
    cases h; exact .of_setReg x _ rfl
  | addVxVy x | subVxVy x | subnVxVy x | shrVx x | shlVx x =>
    cases h; exact .of_setRegThenFlag x _ _ fun _ hr => hr
  | ldVxMem x =>
    cases h; exact .of_ifInMemory (.inr (.inr (.inr ⟨x, .inr (.inr rfl)⟩))) (.of_blockUpTo x _ fun _ hr => hr)
  | ldVxR x => cases h; exact .of_blockUpTo x _ fun _ hr => hr
  | rndVxKk x kk => cases h; exact .random x kk _
  | ldINnn nnn => cases h; exact .index (.inl ⟨nnn, rfl⟩) _
  | addIVx x => cases h; exact .index (.inr ⟨x, .inl rfl⟩) _
  | ldFVx x => cases h; exact .index (.inr ⟨x, .inr (.inl rfl)⟩) _
  | ldHfVx x => cases h; exact .index (.inr ⟨x, .inr (.inr rfl)⟩) _
  | drw x y n =>
    cases h
    exact .of_ifInMemory (.inr (.inr (.inl ⟨x, y, n, rfl⟩))) (.draw x y n _ (onlyWindowDiffers_draw s x y n))
  | ldBVx x =>
    cases h
    exact .of_ifInMemory (.inr (.inr (.inr ⟨x, .inl rfl⟩))) (.bytes ⟨x, .inl rfl⟩ (Memory.wf_writeAll · _ _))
  | ldMemVx x =>
    cases h
    exact .of_ifInMemory (.inr (.inr (.inr ⟨x, .inr (.inl rfl)⟩))) (.bytes ⟨x, .inr rfl⟩ (Memory.wf_writeAll · _ _))
  | ldVxK x => cases h; exact .keyWait x
  | ldDtVx x => cases h; exact .delayTimer x _
  | ldStVx x => cases h; exact .soundTimer x _
  | ldRVx x => cases h; exact .rplStore x _

/-! ### Who writes what -/

/-- Settles O54: the effects that write V are `registers`, `random` and `draw`, each where `mayWriteReg` says. -/
theorem onlyNamedRegistersChange : Obligations.OnlyNamedRegistersChange := by
  intro i s t r h hr
  cases exec_effect h with
  | registers hv => exact hv r hr
  | random x kk b =>
    by_contra hne
    exact hr (s.takeDraw.setReg_reg_other b hne)
  | draw =>
    by_contra hne
    exact hr (State.setReg_reg_other _ _ hne)
  | _ => exact (hr rfl).elim

/-- Settles O55: the effects that move PC are `jump`, `call`, `ret` and `skip`. -/
theorem onlyControlFlowMovesPc : Obligations.OnlyControlFlowMovesPc := by
  intro i s t h hpc
  cases exec_effect h with
  | jump hi =>
    obtain ⟨nnn, rfl | rfl⟩ := hi
    · exact .inl ⟨nnn, .inl rfl⟩
    · exact .inl ⟨nnn, .inr (.inr rfl)⟩
  | call nnn => exact .inl ⟨nnn, .inr (.inl rfl)⟩
  | ret => exact .inr (.inl rfl)
  | skip hi => exact .inr (.inr ⟨rfl, hi⟩)
  | _ => exact (hpc rfl).elim

namespace Effect

variable {s t : State} {i : Instr}

theorem changes_i (he : Effect s i t) (h : t.i ≠ s.i) : WritesIndex i := by
  cases he with
  | index hi => exact hi
  | _ => exact (h rfl).elim

theorem changes_sp (he : Effect s i t) (h : t.sp ≠ s.sp) : (∃ nnn, i = .call nnn) ∨ i = .ret := by
  cases he with
  | call nnn => exact .inl ⟨nnn, rfl⟩
  | ret => exact .inr rfl
  | _ => exact (h rfl).elim

theorem changes_dt (he : Effect s i t) (h : t.dt ≠ s.dt) : ∃ x, i = .ldDtVx x := by
  cases he with
  | delayTimer x => exact ⟨x, rfl⟩
  | _ => exact (h rfl).elim

theorem changes_st (he : Effect s i t) (h : t.st ≠ s.st) : ∃ x, i = .ldStVx x := by
  cases he with
  | soundTimer x => exact ⟨x, rfl⟩
  | _ => exact (h rfl).elim

theorem changes_rpl (he : Effect s i t) (h : t.rpl ≠ s.rpl) : ∃ x, i = .ldRVx x := by
  cases he with
  | rplStore x => exact ⟨x, rfl⟩
  | _ => exact (h rfl).elim

theorem changes_mode (he : Effect s i t) (h : t.mode ≠ s.mode) : i = .low ∨ i = .high := by
  cases he with
  | displayMode hi => exact hi
  | _ => exact (h rfl).elim

theorem changes_mem (he : Effect s i t) (h : t.mem ≠ s.mem) :
    (∃ nnn, i = .call nnn) ∨ ∃ x, i = .ldBVx x ∨ i = .ldMemVx x := by
  cases he with
  | call nnn => exact .inl ⟨nnn, rfl⟩
  | bytes hi => exact .inr hi
  | _ => exact (h rfl).elim

theorem changes_fb (he : Effect s i t) (h : t.fb ≠ s.fb) :
    (∃ n, i = .scd n) ∨ i = .cls ∨ i = .scr ∨ i = .scl ∨ i = .low ∨ i = .high ∨ ∃ x y n, i = .drw x y n := by
  cases he with
  | window hi =>
    obtain hi | hi | hi | hi := hi
    · exact .inl hi
    · exact .inr (.inl hi)
    · exact .inr (.inr (.inl hi))
    · exact .inr (.inr (.inr (.inl hi)))
  | displayMode hi =>
    obtain hi | hi := hi
    · exact .inr (.inr (.inr (.inr (.inl hi))))
    · exact .inr (.inr (.inr (.inr (.inr (.inl hi)))))
  | draw x y n => exact .inr (.inr (.inr (.inr (.inr (.inr ⟨x, y, n, rfl⟩)))))
  | _ => exact (h rfl).elim

theorem changes_run (he : Effect s i t) (h : t.run ≠ s.run) :
    (∃ x, i = .ldVxK x ∧ t.run = .awaitingKey x) ∨
      (∃ a : Word, t.run = .faulted .addressOutOfRange a ∧ 0x1000 ≤ a.toNat) ∧ AccessesMemory i := by
  cases he with
  | keyWait x => exact .inl ⟨x, rfl, rfl⟩
  | addressFault hi ha => exact .inr ⟨⟨_, rfl, ha⟩, hi⟩
  | _ => exact (h rfl).elim

theorem keeps_operand (he : Effect s i t) : t.operand = s.operand := by
  cases he <;> rfl

theorem changes_commits (he : Effect s i t) (h : t.env.commits ≠ s.env.commits) : ∃ x y n, i = .drw x y n := by
  cases he with
  | draw x y n => exact ⟨x, y, n, rfl⟩
  | _ => exact (h rfl).elim

theorem changes_draws (he : Effect s i t) (h : t.env.draws ≠ s.env.draws) : ∃ x kk, i = .rndVxKk x kk := by
  cases he with
  | random x kk => exact ⟨x, kk, rfl⟩
  | _ => exact (h rfl).elim

end Effect

/-- Settles O53: each clause is the effects' lemma about that piece of state. -/
theorem eachStateHasItsWriters : Obligations.EachStateHasItsWriters := by
  intro i s t h
  have he := exec_effect h
  refine ⟨he.changes_i, he.changes_sp, he.changes_dt, he.changes_st, he.changes_rpl, he.changes_mode, he.changes_mem,
    he.changes_fb, fun hrun => ?_, he.keeps_operand, he.changes_commits, he.changes_draws⟩
  exact (he.changes_run hrun).imp_right fun ⟨⟨a, ha, _⟩, hi⟩ => ⟨⟨a, ha⟩, hi⟩

end Sys2Proof.Proofs

/-! ## What no instruction reads

ST, OPERAND and, but for the inputs `SKP`, `SKNP` and `RND` sample, the boundary. `exec_readsNoUnread` says so of every
instruction at once; the two statements about it vary one or two of the three. -/

namespace Sys2Proof.Proofs

open Sys2Proof.Machine Sys2Proof.Claims

/-- The state with other values of ST, OPERAND and the boundary. -/
def withUnread (s : State) (sound : Byte) (word : Word) (e : Env) : State :=
  { s with st := sound, operand := word, env := e }

/-- The value instruction `i` leaves in ST, from what ST held: `LD ST,Vx` alone writes it. -/
def soundAfter (s : State) (sound : Byte) : Instr → Byte
  | .ldStVx x => s.reg x
  | _ => sound

theorem soundAfter_of_ne {i : Instr} (h : ∀ x, i ≠ .ldStVx x) (s : State) (sound : Byte) :
    soundAfter s sound i = sound := by
  cases i with
  | ldStVx x => exact absurd rfl (h x)
  | _ => rfl

/-- The inputs of the boundary that `i` samples are the same in `e` and `e'`: the key levels for `SKP` and `SKNP`, the
draw for `RND` (rule R36). -/
def SameSamples (i : Instr) (e e' : Env) : Prop :=
  ((∃ x, i = .skpVx x ∨ i = .sknpVx x) → e'.keyDown = e.keyDown) ∧ ((∃ x kk, i = .rndVxKk x kk) → e'.draws = e.draws)

/-- `i` has one effect in `s`, whatever ST, OPERAND and the boundary hold, as long as the inputs it samples are the same;
`upd` is what it does to the boundary. -/
def ReadsNoUnread (i : Instr) (s : State) : Prop :=
  ∃ (t : State) (upd : Env → Env), ∀ sound word e, SameSamples i s.env e →
    exec i (withUnread s sound word e) = .next (withUnread t (soundAfter s sound i) word (upd e))

/-- An instruction guarded by the memory bound, where what it does within the bound reads none of the three. -/
theorem readsNoUnread_of_ifInMemory {i : Instr} {s : State} (base : Word) (len : Nat) (done : State) (upd : Env → Env)
    (hi : ∀ x, i ≠ .ldStVx x)
    (h : ∀ sound word e, exec i (withUnread s sound word e) =
      .next ((withUnread s sound word e).ifInMemory base len (withUnread done sound word (upd e)))) :
    ReadsNoUnread i s := by
  by_cases hb : inMemory base.toNat len = true
  · refine ⟨done, upd, fun sound word e _ => ?_⟩
    rw [h, soundAfter_of_ne hi, State.ifInMemory, if_pos hb]
  · refine ⟨s.raise .addressOutOfRange (firstOutside base), id, fun sound word e _ => ?_⟩
    rw [h, soundAfter_of_ne hi, State.ifInMemory, if_neg hb]
    rfl

/-- A skip whose condition reads none of the three but the inputs it samples. -/
theorem readsNoUnread_of_skipIf {i : Instr} {s : State} (c : Bool) (hi : ∀ x, i ≠ .ldStVx x)
    (h : ∀ sound word e, SameSamples i s.env e →
      exec i (withUnread s sound word e) = .next ((withUnread s sound word e).skipIf c)) :
    ReadsNoUnread i s := by
  refine ⟨s.skipIf c, id, fun sound word e he => ?_⟩
  rw [h sound word e he, soundAfter_of_ne hi]
  cases c <;> rfl

theorem keyIsDown_withUnread {s : State} {e : Env} (h : e.keyDown = s.env.keyDown) (sound : Byte) (word : Word)
    (k : Fin 16) : (withUnread s sound word e).keyIsDown k = s.keyIsDown k :=
  congrArg (BitVec.getLsbD · k.val) h

theorem nextDraw_withUnread {s : State} {e : Env} (h : e.draws = s.env.draws) (sound : Byte) (word : Word) :
    (withUnread s sound word e).nextDraw = s.nextDraw :=
  congrArg Config.draw8 h

/-- The instructions that store, load or draw are guarded by the memory bound, the skips by their condition; only `SKP`,
`SKNP` and `RND` sample an input. -/
theorem exec_readsNoUnread (i : Instr) (s : State) : ReadsNoUnread i s := by
  obtain ⟨t, ht⟩ := exec_answers_next i s
  cases i with
  | call nnn =>
    exact readsNoUnread_of_ifInMemory s.sp 2 ((s.push s.pc).setPc (zextAddress nnn)) id nofun fun _ _ _ => rfl
  | drw x y n =>
    exact readsNoUnread_of_ifInMemory s.i (s.spriteBytes n) (s.drawSprite x y n)
      (fun e => { e with commits := e.commits + 1 }) nofun fun _ _ _ => rfl
  | ldBVx x =>
    exact readsNoUnread_of_ifInMemory s.i 3 (s.setMem (Memory.writeAll s.mem s.i.toNat (decimalDigits (s.reg x)))) id
      nofun fun _ _ _ => rfl
  | ldMemVx x =>
    exact readsNoUnread_of_ifInMemory s.i (x.val + 1) (s.setMem (Memory.writeAll s.mem s.i.toNat (s.regsUpTo x))) id
      nofun fun _ _ _ => rfl
  | ldVxMem x =>
    exact readsNoUnread_of_ifInMemory s.i (x.val + 1)
      (s.setV (blockUpTo x (fun k => s.byteAt (s.i.toNat + k.val)) s.reg)) id nofun fun _ _ _ => rfl
  | seVxKk x kk => exact readsNoUnread_of_skipIf (s.reg x == kk) nofun fun _ _ _ _ => rfl
  | sneVxKk x kk => exact readsNoUnread_of_skipIf (s.reg x != kk) nofun fun _ _ _ _ => rfl
  | seVxVy x y => exact readsNoUnread_of_skipIf (s.reg x == s.reg y) nofun fun _ _ _ _ => rfl
  | sneVxVy x y => exact readsNoUnread_of_skipIf (s.reg x != s.reg y) nofun fun _ _ _ _ => rfl
  | skpVx x =>
    refine readsNoUnread_of_skipIf (s.keyIsDown (keyIndex (s.reg x))) nofun fun sound word e he => ?_
    rw [← keyIsDown_withUnread (he.1 ⟨x, .inl rfl⟩) sound word]
    rfl
  | sknpVx x =>
    refine readsNoUnread_of_skipIf (!s.keyIsDown (keyIndex (s.reg x))) nofun fun sound word e he => ?_
    rw [← keyIsDown_withUnread (he.1 ⟨x, .inr rfl⟩) sound word]
    rfl
  | rndVxKk x kk =>
    refine ⟨s.setReg x (s.nextDraw &&& kk), fun e => { e with draws := e.draws + 1 }, fun sound word e he => ?_⟩
    rw [← nextDraw_withUnread (he.2 ⟨x, kk, rfl⟩) sound word]
    rfl
  | ret =>
    cases hp : popFault s.sp with
    | none =>
      exact ⟨(s.setSp (s.sp - 2)).setPc (s.byteAt (s.sp.toNat - 1) ++ s.byteAt (s.sp.toNat - 2)), id,
        fun sound word e _ => exec_ret_of_popFault_none (s := withUnread s sound word e) hp⟩
    | some a =>
      exact ⟨s.raise .addressOutOfRange a, id,
        fun sound word e _ => exec_ret_of_popFault (s := withUnread s sound word e) hp⟩
  | ldStVx x => exact ⟨s, id, fun _ _ _ _ => rfl⟩
  | _ =>
    refine ⟨t, id, fun _ _ _ _ => ?_⟩
    cases ht
    rfl

/-- The same at the state itself: its own ST, OPERAND and boundary give the next state `t`. -/
theorem exec_withUnread {i : Instr} {s t : State} (h : exec i s = .next t) :
    ∃ upd : Env → Env, t.operand = s.operand ∧ t.st = soundAfter s s.st i ∧ t.env = upd s.env ∧
      ∀ sound word e, SameSamples i s.env e →
        exec i (withUnread s sound word e) = .next (withUnread t (soundAfter s sound i) word (upd e)) := by
  obtain ⟨u, upd, hu⟩ := exec_readsNoUnread i s
  cases (hu s.st s.operand s.env ⟨fun _ => rfl, fun _ => rfl⟩).symm.trans h
  exact ⟨upd, rfl, rfl, rfl, hu⟩

/-- Settles O56: the other boundary is the only one of the three that differs. -/
theorem boundaryReachesStateThroughInputsOnly : Obligations.BoundaryReachesStateThroughInputsOnly := by
  intro i s t e h hkeys hdraws
  obtain ⟨upd, hop, hst, -, hu⟩ := exec_withUnread h
  refine ⟨_, hu s.st s.operand e ⟨hkeys, hdraws⟩, ?_⟩
  rw [← hop, ← hst]
  rfl

/-- Settles O60: the boundary stays what it is, so the inputs sampled are the same. -/
theorem noInstructionReadsSoundTimerOrOperand : Obligations.NoInstructionReadsSoundTimerOrOperand := by
  intro i s t sound word h
  obtain ⟨upd, -, hst, henv, hu⟩ := exec_withUnread h
  refine ⟨_, hu sound word s.env ⟨fun _ => rfl, fun _ => rfl⟩, ?_, rfl, ?_, fun hi => soundAfter_of_ne hi s sound⟩
  · rw [← henv]
    rfl
  · rintro ⟨x, rfl⟩
    exact hst.symm

end Sys2Proof.Proofs

/-! ## The reset state and the invariant -/

namespace Sys2Proof.Proofs

open Sys2Proof.Machine

/-- Settles O16: register by register, byte by byte and pixel by pixel. -/
theorem resetStateHoldsTheResetValues : Obligations.ResetStateHoldsTheResetValues :=
  ⟨by decide, rfl, rfl, rfl, rfl, rfl, by decide, rfl, rfl, fun _ => rfl, Grid.get_dark, rfl⟩

/-- Settles O57: memory is empty, the grid is dark, 0x0052 is even and no fault is latched. -/
theorem invariantAtReset : Obligations.InvariantAtReset :=
  ⟨Memory.wf_reset, fun x y _ => Grid.get_dark x y, by decide, fun _ h => (nomatch h), fun _ h => nomatch h⟩

/-- The part of the invariant that speaks of memory, grid and stack pointer. -/
structure Tidy (s : State) : Prop where
  memory_canonical : Memory.wf s.mem = true
  outside_window_dark : ∀ x y, (s.mode.width ≤ x ∨ s.mode.height ≤ y) → Grid.get s.fb x y = false
  sp_even : s.sp.toNat % 2 = 0

/-- The part of the invariant that speaks of a latched fault. -/
structure FaultTruthful (s : State) : Prop where
  unknown_info : ∀ op, s.run = .faulted .unknownInstruction op →
    op = s.operand ∧ decode op = .error (.unknownInstruction op)
  address_info : ∀ a, s.run = .faulted .addressOutOfRange a → 0x1000 ≤ a.toNat ∨ (a = 0x0FFF ∧ s.pc = 0x0FFF)

theorem inv_iff (s : State) : Inv s ↔ Tidy s ∧ FaultTruthful s :=
  ⟨fun ⟨hmem, hdark, hsp, hop, ha⟩ => ⟨⟨hmem, hdark, hsp⟩, hop, ha⟩,
    fun ⟨⟨hmem, hdark, hsp⟩, hop, ha⟩ => ⟨hmem, hdark, hsp, hop, ha⟩⟩

/-! ### A latched fault -/

theorem FaultTruthful.of_not_faulted {s : State} (h : ∀ k a, s.run ≠ .faulted k a) : FaultTruthful s :=
  ⟨fun op hop => absurd hop (h _ op), fun a ha => absurd ha (h _ a)⟩

theorem faultTruthful_of_running {s : State} (h : s.run = .running) : FaultTruthful s :=
  .of_not_faulted fun _ _ hf => nomatch h.symm.trans hf

theorem faultTruthful_raise_address (s : State) {a : Word} (h : 0x1000 ≤ a.toNat ∨ (a = 0x0FFF ∧ s.pc = 0x0FFF)) :
    FaultTruthful (s.raise .addressOutOfRange a) := by
  refine ⟨fun _ hop => (nomatch hop), fun b hb => ?_⟩
  cases hb
  exact h

theorem faultTruthful_raise_unknown {s : State} (h : decode s.operand = .error (.unknownInstruction s.operand)) :
    FaultTruthful (s.raise .unknownInstruction s.operand) := by
  refine ⟨fun op hop => ?_, fun _ ha => nomatch ha⟩
  cases hop
  exact ⟨rfl, h⟩

/-! ### Instructions -/

theorem Effect.keeps_tidy {s t : State} {i : Instr} (he : Effect s i t) (hs : Tidy s) : Tidy t := by
  obtain ⟨hmem, hdark, hsp⟩ := hs
  cases he with
  | call => exact ⟨Memory.wf_writeAll hmem _ _, hdark, by change (s.sp + 2).toNat % 2 = 0; bv_omega⟩
  | ret => exact ⟨hmem, hdark, by change (s.sp - 2).toNat % 2 = 0; bv_omega⟩
  | bytes _ hm => exact ⟨hm hmem, hdark, hsp⟩
  | window _ hg => exact ⟨hmem, fun x y hxy => (hg x y hxy).trans (hdark x y hxy), hsp⟩
  | draw _ _ _ _ hg => exact ⟨hmem, fun x y hxy => (hg x y hxy).trans (hdark x y hxy), hsp⟩
  | displayMode => exact ⟨hmem, fun x y _ => Grid.get_dark x y, hsp⟩
  | _ => exact ⟨hmem, hdark, hsp⟩

/-- An instruction of a running core leaves it running, waiting for a key, or faulted at an address outside memory. -/
theorem Effect.faultTruthful {s t : State} {i : Instr} (he : Effect s i t) (hr : s.run = .running) :
    FaultTruthful t := by
  by_cases h : t.run = s.run
  · exact faultTruthful_of_running (h.trans hr)
  · obtain ⟨x, -, hx⟩ | ⟨⟨a, ha, hle⟩, -⟩ := he.changes_run h
    · exact .of_not_faulted fun _ _ hf => nomatch hx.symm.trans hf
    · refine ⟨fun _ hop => (nomatch ha.symm.trans hop), fun b hb => ?_⟩
      cases ha.symm.trans hb
      exact .inl hle

/-! ### Events -/

theorem inv_reportExecuted {s : State} (w : Word) (hs : Inv s) : Inv (s.reportExecuted w) := by
  obtain h | h := s.reportExecuted_eq w
  · rwa [h]
  · rw [h]
    exact { hs with }

/-- Dispatch keeps the invariant when the core runs and OPERAND holds the word dispatched (rules R121, R122). -/
theorem inv_dispatchWord {s t : State} {w : Word} (hs : Tidy s) (hr : s.run = .running) (hw : s.operand = w)
    (h : dispatchWord w s = .next t) : Inv t := by
  obtain ⟨i, -, hd⟩ | ⟨herr, hd⟩ := dispatchWord_cases w s
  · obtain ⟨u, hu, rfl⟩ := onNext_next (hd.symm.trans h)
    have he := exec_effect hu
    exact inv_reportExecuted w ((inv_iff u).mpr ⟨he.keeps_tidy hs, he.faultTruthful hr⟩)
  · cases hd.symm.trans h
    subst hw
    exact (inv_iff _).mpr ⟨{ hs with }, faultTruthful_raise_unknown herr⟩

/-- A fetch fails only where PC + 1 is past the end of memory (rule R121). -/
theorem pc_of_fetchWord_none {s : State} (h : s.fetchWord = none) : 0x1000 ≤ s.pc.toNat ∨ s.pc = 0x0FFF := by
  have hout : ¬ (2 = 0 ∨ s.pc.toNat + 2 ≤ 4096) := by
    rw [← inMemory_iff]
    intro hin
    simp [State.fetchWord, hin] at h
  bv_omega

theorem inv_execute {s t : State} (hs : Tidy s) (h : execute s = .next t) : Inv t := by
  obtain ⟨x, -, hx⟩ | ⟨k, a, -, hx⟩ | ⟨-, hf, hx⟩ | ⟨w, hr, -, hx⟩ := execute_cases s
  · cases hx.symm.trans h
  · cases hx.symm.trans h
  · cases hx.symm.trans h
    exact (inv_iff _).mpr ⟨{ hs with },
      faultTruthful_raise_address _ ((pc_of_fetchWord_none hf).imp_right fun hpc => ⟨hpc, hpc⟩)⟩
  · exact inv_dispatchWord (s := s.fetched w) { hs with } hr rfl (hx.symm.trans h)

theorem inv_executeInjected {s t : State} {w : Word} (hs : Tidy s) (h : executeInjected w s = .next t) : Inv t := by
  unfold executeInjected at h
  split at h
  case h_1 hr =>
    exact inv_dispatchWord (s := s.endLaunch.setOperand w) { hs with } hr rfl h
  case h_2 => cases h
  case h_3 => cases h

theorem inv_loadEvent {s t : State} {offset : Nat} {bs : List Byte} (hs : Inv s)
    (h : loadEvent offset bs s = .next t) : Inv t := by
  unfold loadEvent at h
  split at h
  · cases h
  · split at h
    · cases h
    · cases h
      exact { hs with memory_canonical := Memory.wf_writeAll hs.memory_canonical _ _ }

theorem inv_tickEvent {s : State} (hs : Inv s) : Inv (tickEvent s) := by
  unfold tickEvent
  split
  · exact { hs with }
  · exact hs
  · exact hs

theorem inv_keyPressEvent {s : State} (k : Fin 16) (hs : Inv s) : Inv (keyPressEvent k s) := by
  unfold keyPressEvent
  split
  · exact (inv_iff _).mpr ⟨{ hs with }, faultTruthful_of_running rfl⟩
  · exact hs
  · exact hs

theorem inv_runEvent {s t : State} (e : Event) (hs : Inv s) (h : runEvent e s = .next t) : Inv t := by
  cases e with
  | reset =>
    cases h
    exact { invariantAtReset with }
  | load offset bs => exact inv_loadEvent hs h
  | execute => exact inv_execute { hs with } h
  | executeInjected w => exact inv_executeInjected { hs with } h
  | tick => cases h; exact inv_tickEvent hs
  | keyPress k => cases h; exact inv_keyPressEvent k hs
  | keyLevels levels =>
    cases h
    exact { hs with }

/-- Settles O58: beginning the event touches the boundary alone, and every event keeps the invariant. -/
theorem everyStepKeepsTheInvariant : Obligations.EveryStepKeepsTheInvariant := by
  intro s t hs h
  have hbegin : Inv s.beginEvent := { hs with }
  exact inv_runEvent s.currentEvent hbegin h

end Sys2Proof.Proofs

/-! ## Memory, fetch and the launch phase

The rules of 20_memory.md: what is read back after a block of bytes has been written, the word a fetch makes of the two
bytes at PC, and the events Execute and Load in terms of the schedule's next event. -/

namespace Sys2Proof.Proofs

open Sys2Proof.Machine Sys2Proof.Claims

/-! ### Reading a written block -/

theorem read_writeAll_add {m : Memory} (h : Memory.wf m = true) {a : Nat} {xs : List Byte} (ha : a + xs.length ≤ 4096)
    (k : Nat) (hk : k < xs.length) : Memory.read (Memory.writeAll m a xs) (a + k) = xs[k] := by
  rw [Memory.read_writeAll h a xs (a + k) ha, dif_pos (by omega)]
  simp only [Nat.add_sub_cancel_left]

theorem read_writeAll_outside {m : Memory} (h : Memory.wf m = true) {a : Nat} {xs : List Byte}
    (ha : a + xs.length ≤ 4096) {b : Nat} (hb : b < a ∨ a + xs.length ≤ b) :
    Memory.read (Memory.writeAll m a xs) b = Memory.read m b := by
  rw [Memory.read_writeAll h a xs b ha, dif_neg (by omega)]

/-! ### The word at PC (rules R61, R62) -/

theorem wordOfBytes_eq_ofNat (hi lo : Byte) : wordOfBytes hi lo = BitVec.ofNat 16 (hi.toNat * 256 + lo.toNat) := by
  rw [← wordOfBytes_toNat, BitVec.ofNat_toNat, BitVec.setWidth_eq]

theorem wordAtPc_eq (s : State) : wordAtPc s = wordOfBytes (s.byteAt s.pc.toNat) (s.byteAt (s.pc.toNat + 1)) :=
  (wordOfBytes_eq_ofNat _ _).symm

theorem fetchWord_of_fits {s : State} (h : s.pc.toNat + 1 ≤ 0xFFF) : s.fetchWord = some (wordAtPc s) := by
  rw [State.fetchWord, if_pos ((inMemory_iff _ _).mpr (.inr (by omega))), wordAtPc_eq]
  rfl

theorem fetchWord_of_outside {s : State} (h : 0xFFF < s.pc.toNat + 1) : s.fetchWord = none := by
  rw [State.fetchWord, if_neg]
  rw [inMemory_iff]
  omega

section WrittenBlock

variable {t : State} {m : Memory} {a : Nat} {xs : List Byte} {k : Nat} {hi lo : Byte} (hm : Memory.wf m = true)
  (ha : a + xs.length ≤ 4096) (hhi : xs[k]? = some hi) (hlo : xs[k + 1]? = some lo) (hpc : t.pc.toNat = a + k)
  (ht : t.mem = Memory.writeAll m a xs)

include hm ha hhi hlo hpc ht

/-- Where PC points into a written block, the word at PC is made of the two bytes written there. -/
theorem wordAtPc_of_writeAll : wordAtPc t = wordOfBytes hi lo := by
  obtain ⟨hk, rfl⟩ := List.getElem?_eq_some_iff.mp hhi
  obtain ⟨hk', rfl⟩ := List.getElem?_eq_some_iff.mp hlo
  rw [wordAtPc_eq, State.byteAt, State.byteAt, ht, hpc, read_writeAll_add hm ha k hk, Nat.add_assoc,
    read_writeAll_add hm ha (k + 1) hk']

/-- A fetch reads the bytes just written, with no fence between (rule R75, decision D24). -/
theorem fetchWord_of_writeAll : t.fetchWord = some (BitVec.ofNat 16 (hi.toNat * 256 + lo.toNat)) := by
  obtain ⟨hk', -⟩ := List.getElem?_eq_some_iff.mp hlo
  rw [fetchWord_of_fits (by omega), wordAtPc_of_writeAll hm ha hhi hlo hpc ht, wordOfBytes_eq_ofNat]

end WrittenBlock

/-! ### Operands as numbers -/

theorem lowByte_toNat (w : Word) : (lowByte w).toNat = w.toNat % 256 := fieldKK_toNat w

theorem highByte_toNat (w : Word) : (highByte w).toNat = w.toNat / 256 := by
  have := w.isLt
  simp only [highByte, BitVec.extractLsb'_toNat, Nat.shiftRight_eq_div_pow]
  omega

theorem zextAddress_toNat (nnn : Address) : (zextAddress nnn).toNat = nnn.toNat :=
  BitVec.toNat_setWidth_of_le (by decide)

/-- A digit keeps its value as a byte (rule R64). -/
theorem digit_toNat {d : Nat} (h : d < 10) : (BitVec.ofNat 8 d).toNat = d := Nat.mod_eq_of_lt (by omega)

/-! ### The instructions that store and load, within the memory bound -/

theorem exec_ldMemVx_of_fits {x : Reg} {s : State} (h : s.i.toNat + x.val ≤ 0xFFF) :
    exec (.ldMemVx x) s = .next (s.setMem (Memory.writeAll s.mem s.i.toNat (s.regsUpTo x))) :=
  congrArg _ (s.ifInMemory_of_fits _ (.inr (by omega)))

theorem exec_ldVxMem_of_fits {x : Reg} {s : State} (h : s.i.toNat + x.val ≤ 0xFFF) :
    exec (.ldVxMem x) s = .next (s.setV (blockUpTo x (fun k => s.byteAt (s.i.toNat + k.val)) s.reg)) :=
  congrArg _ (s.ifInMemory_of_fits _ (.inr (by omega)))

theorem exec_ldBVx_of_fits {x : Reg} {s : State} (h : s.i.toNat + 2 ≤ 0xFFF) :
    exec (.ldBVx x) s = .next (s.setMem (Memory.writeAll s.mem s.i.toNat (decimalDigits (s.reg x)))) :=
  congrArg _ (s.ifInMemory_of_fits _ (.inr (by omega)))

theorem exec_call_of_fits {nnn : Address} {s : State} (h : s.sp.toNat + 1 ≤ 0xFFF) :
    exec (.call nnn) s = .next ((s.push s.pc).setPc (zextAddress nnn)) :=
  congrArg _ (s.ifInMemory_of_fits _ (.inr (by omega)))

/-! ### Storing and loading back, storing and fetching -/

theorem regsUpTo_getElem? (s : State) {x r : Reg} (h : r ≤ x) : (s.regsUpTo x)[r.val]? = some (s.reg r) := by
  have hr : r.val < (s.regsUpTo x).length := (s.regsUpTo_length x).symm ▸ Nat.lt_succ_of_le h
  rw [List.getElem?_eq_getElem hr, s.regsUpTo_getElem x r.val hr r.isLt]

/-- The bytes a block store has put at I are the registers (rule R219). -/
theorem byteAt_of_ldMemVx {x : Reg} {s t : State} (hm : Memory.wf s.mem = true) (hi : s.i.toNat + x.val ≤ 0xFFF)
    (h : exec (.ldMemVx x) s = .next t) {r : Reg} (hr : r ≤ x) : t.byteAt (s.i.toNat + r.val) = s.reg r := by
  have hlen := s.regsUpTo_length x
  obtain ⟨hk, hreg⟩ := List.getElem?_eq_some_iff.mp (regsUpTo_getElem? s hr)
  cases (exec_ldMemVx_of_fits hi).symm.trans h
  exact (read_writeAll_add hm (by omega) r.val hk).trans hreg

/-- Settles O38: the store puts the registers at I, and the load takes its block from there. -/
theorem blockLoadUndoesBlockStore : Obligations.BlockLoadUndoesBlockStore := by
  intro x s t u hm hi hst hui hbytes
  refine ⟨_, exec_ldVxMem_of_fits (hui ▸ hi), fun r hr => ?_, fun r hr => ?_⟩
  · calc _ = u.byteAt (u.i.toNat + r.val) := (blockUpTo_get x _ u.reg r).trans (if_pos hr)
      _ = t.byteAt (s.i.toNat + r.val) := hui ▸ hbytes r hr
      _ = s.reg r := byteAt_of_ldMemVx hm hi hst hr
  · exact (blockUpTo_get x _ u.reg r).trans (if_neg (Fin.not_le.mpr hr))

theorem fetchWord_of_ldMemVx {x p q : Reg} {s t : State} (hm : Memory.wf s.mem = true) (hi : s.i.toNat + x.val ≤ 0xFFF)
    (hpc : s.pc.toNat = s.i.toNat + p.val) (hq : q.val = p.val + 1) (hqx : q ≤ x) (h : exec (.ldMemVx x) s = .next t) :
    t.fetchWord = some (BitVec.ofNat 16 ((s.reg p).toNat * 256 + (s.reg q).toNat)) := by
  have hlen := s.regsUpTo_length x
  have hpq : p ≤ q := Fin.le_def.mpr (by omega)
  cases (exec_ldMemVx_of_fits hi).symm.trans h
  exact fetchWord_of_writeAll hm (by omega) (regsUpTo_getElem? s (hpq.trans hqx)) (hq ▸ regsUpTo_getElem? s hqx) hpc rfl

theorem fetchWord_of_ldBVx {x : Reg} {s t : State} (hm : Memory.wf s.mem = true) (hi : s.i.toNat + 2 ≤ 0xFFF)
    (h : exec (.ldBVx x) s = .next t) :
    (s.pc.toNat = s.i.toNat →
      t.fetchWord = some (BitVec.ofNat 16 ((s.reg x).toNat / 100 * 256 + (s.reg x).toNat / 10 % 10))) ∧
    (s.pc.toNat = s.i.toNat + 1 →
      t.fetchWord = some (BitVec.ofNat 16 ((s.reg x).toNat / 10 % 10 * 256 + (s.reg x).toNat % 10))) := by
  have hlen : s.i.toNat + (decimalDigits (s.reg x)).length ≤ 4096 := Nat.succ_le_succ hi
  cases (exec_ldBVx_of_fits hi).symm.trans h
  refine ⟨fun hpc => ?_, fun hpc => ?_⟩
  · refine Eq.trans (fetchWord_of_writeAll (k := 0) hm hlen rfl rfl hpc rfl) ?_
    rw [digit_toNat (by omega), digit_toNat (by omega)]
  · refine Eq.trans (fetchWord_of_writeAll (k := 1) hm hlen rfl rfl hpc rfl) ?_
    rw [digit_toNat (by omega), digit_toNat (by omega)]

theorem fetchWord_of_call {nnn : Address} {s t : State} (hm : Memory.wf s.mem = true) (hsp : s.sp.toNat + 1 ≤ 0xFFF)
    (hnnn : nnn.toNat = s.sp.toNat) (h : exec (.call nnn) s = .next t) :
    t.fetchWord = some (BitVec.ofNat 16 (s.pc.toNat % 256 * 256 + s.pc.toNat / 256)) := by
  have hlen : s.sp.toNat + [lowByte s.pc, highByte s.pc].length ≤ 4096 := Nat.succ_le_succ hsp
  cases (exec_call_of_fits hsp).symm.trans h
  rw [← lowByte_toNat, ← highByte_toNat]
  exact fetchWord_of_writeAll (k := 0) hm hlen rfl rfl ((zextAddress_toNat nnn).trans hnnn) rfl

/-- Settles O40: a block store, a digit store and a call all write a block of bytes that PC points into. -/
theorem storedBytesAreFetched : Obligations.StoredBytesAreFetched :=
  ⟨fun _ => fetchWord_of_fits, fun _ _ _ _ _ => fetchWord_of_ldMemVx, fun _ _ _ => fetchWord_of_ldBVx,
    fun _ _ _ => fetchWord_of_call⟩

/-! ### The next event (log 1) -/

theorem currentEvent_of_nextEventIs {s : State} {e : Event} (h : NextEventIs s e) : s.currentEvent = e := by
  obtain h | ⟨h, rfl⟩ := h
  · rw [State.currentEvent, List.headD_eq_head?_getD, h, Option.getD_some]
  · rw [State.currentEvent, h, List.headD_nil]

/-- A step takes the next event in the state whose boundary has begun it. -/
theorem step_of_nextEventIs {s : State} {e : Event} (h : NextEventIs s e) :
    step s = runEvent e { s with env := envAfter s } := by
  rw [← currentEvent_of_nextEventIs h]
  rfl

theorem execute_of_fits {s : State} (hr : s.run = .running) (hpc : s.pc.toNat + 1 ≤ 0xFFF) :
    execute s = dispatchWord (wordAtPc s) (s.fetched (wordAtPc s)) := by
  simp only [execute, hr, fetchWord_of_fits hpc]

theorem execute_of_outside {s : State} (hr : s.run = .running) (hpc : 0xFFF < s.pc.toNat + 1) :
    execute s = .next (s.endLaunch.raise .addressOutOfRange s.pc) := by
  simp only [execute, hr, fetchWord_of_outside hpc]

/-- The first offending address as D3 states it. -/
theorem firstOutside_eq (base : Word) : firstOutside base = if 0xFFF < base.toNat then base else 0x1000 := by
  by_cases h : base.toNat < 4096
  · exact (if_pos h).trans (if_neg (by omega)).symm
  · exact (if_neg h).trans (if_pos (by omega)).symm

/-- Settles O8: the fetch finds no word, and the first offending address is the model's `firstOutside` of PC. -/
theorem fetchPastEndOfMemoryFaults : Obligations.FetchPastEndOfMemoryFaults := by
  intro s hr hn hpc
  exact ⟨_, (step_of_nextEventIs hn).trans (execute_of_outside hr hpc), rfl, congrArg some (firstOutside_eq s.pc)⟩

/-! ### Load (rule R72) -/

/-- Settles O17: within its domain the event is one block write, read back byte by byte. -/
theorem loadWritesItsBytes : Obligations.LoadWritesItsBytes := by
  intro s offset bytes hm hl hn hfit
  have hstep : step s = .next { s with mem := Memory.writeAll s.mem offset bytes, env := envAfter s } := by
    rw [step_of_nextEventIs hn, runEvent, loadEvent, if_neg (by simp [envAfter, hl]), if_neg (Nat.not_lt.mpr hfit)]
    rfl
  exact ⟨_, hstep, read_writeAll_add hm hfit, fun _ => read_writeAll_outside hm hfit, rfl⟩

/-- Settles O18: the launch flag is tested first, then the end of memory. -/
theorem loadIsRefusedOutsideItsDomain : Obligations.LoadIsRefusedOutsideItsDomain := by
  intro s offset bytes hn
  rw [step_of_nextEventIs hn, runEvent, loadEvent]
  refine ⟨fun hl => if_pos (by simp [envAfter, hl]), fun hl hout => ?_⟩
  rw [if_neg (by simp [envAfter, hl]), if_pos hout]

/-! ### A word placed from outside (log 7) -/

/-- Reporting an executed word is what `ReportedAs` says of it (rules R294, R295). -/
theorem reportedAs_onNext (w : Word) (r : Host.Outcome State Fault Refusal) :
    ReportedAs (onNext (State.reportExecuted w) r) w r := by
  refine ⟨?_, ?_, ?_, ?_⟩
  · rintro t rfl hrun
    cases hr : t.run with
    | faulted k a => exact absurd hr (hrun k a)
    | running | awaitingKey => simp only [onNext, State.reportExecuted, hr]
  · rintro t k a rfl hr
    simp only [onNext, State.reportExecuted, hr]
  · rintro f rfl
    rfl
  · rintro f rfl
    rfl

/-- A decoded word is run at the state dispatch finds, and reported (rules R123, R294). -/
theorem reportedAs_dispatchWord {w : Word} {i : Instr} (hw : decode w = .ok i) (s : State) :
    ReportedAs (dispatchWord w s) w (exec i s) := by
  rw [dispatchWord, hw]
  exact reportedAs_onNext w (exec i s)

/-- The next step of a running core whose next event is Execute runs the word at PC (rule R121). -/
theorem reportedAs_step_of_execute {s : State} {i : Instr} (hr : s.run = .running) (hn : NextEventIs s .execute)
    (hpc : s.pc.toNat + 1 ≤ 0xFFF) (hw : decode (wordAtPc s) = .ok i) :
    ReportedAs (step s) (wordAtPc s) (exec i (foundAfterFetch s)) := by
  rw [(step_of_nextEventIs hn).trans (execute_of_fits hr hpc)]
  exact reportedAs_dispatchWord hw (foundAfterFetch s)

theorem withFetchWord_of_word (s : State) (w : Word) : s.withFetchWord 16 w.toNat = s.placeWord w := by
  rw [State.withFetchWord, tableWord, Nat.mod_eq_of_lt w.isLt, BitVec.ofNat_toNat, BitVec.setWidth_eq]

theorem placeablePc_eq (pc : Word) : placeablePc pc = if pc.toNat + 1 ≤ 0xFFF then pc else 0x0200 := by
  have hfits : inMemory pc.toNat 2 = true ↔ pc.toNat + 1 ≤ 0xFFF := by rw [inMemory_iff]; omega
  simp only [placeablePc, hfits]

theorem placeablePc_fits (pc : Word) : (placeablePc pc).toNat + 1 ≤ 0xFFF := by
  rw [placeablePc_eq]
  split
  · assumption
  · decide

theorem wordAtPc_placeWord {s : State} (hm : Memory.wf s.mem = true) (w : Word) : wordAtPc (s.placeWord w) = w := by
  have hfits : (placeablePc s.pc).toNat + [highByte w, lowByte w].length ≤ 4096 :=
    Nat.succ_le_succ (placeablePc_fits s.pc)
  exact (wordAtPc_of_writeAll (k := 0) hm hfits rfl rfl rfl rfl).trans (wordOfBytes_bytes w)

theorem nextEventIs_execute_placeWord (s : State) (w : Word) : NextEventIs (s.placeWord w) .execute := by
  unfold NextEventIs State.placeWord
  cases s.env.events with
  | nil => exact .inr ⟨rfl, rfl⟩
  | cons => exact .inl rfl

/-- Settles O19: the placed word is the word at PC, PC fits, and the next event is an Execute of a running core. -/
theorem placedWordRunsNext : Obligations.PlacedWordRunsNext := by
  intro s w i hm hw
  rw [withFetchWord_of_word]
  have hword := wordAtPc_placeWord hm w
  have hrun := reportedAs_step_of_execute (s := s.placeWord w) rfl (nextEventIs_execute_placeWord s w)
    (placeablePc_fits s.pc) (hword.symm ▸ hw)
  rw [hword] at hrun
  exact ⟨placeablePc_eq s.pc, hword, hrun⟩

end Sys2Proof.Proofs

/-! ## The decoder and the encoder

Decoding and encoding are two readings of one table (30_encoding.md): `decode_eq_ok_iff` says that a word decodes to `i`
exactly when `i` is well-formed and its encoding is the word with the bits `i` ignores cleared. Each format has one lemma
for it, in terms of the fields of the word; the decoder's branches prove one direction and the encoder's rows the other. -/

namespace Sys2Proof.Proofs

/-! ### The fields of a word as numbers, and a word with its ignored bits cleared (rule R99) -/

theorem fieldKK_eq_iff {w : Word} {kk : Byte} : fieldKK w = kk ↔ w.toNat % 256 = kk.toNat := by
  rw [← BitVec.toNat_inj, fieldKK_toNat]

theorem highNibble_toNat (kk : Byte) : (kk.extractLsb' 4 4).toNat = kk.toNat / 16 := by
  have := kk.isLt
  simp only [BitVec.extractLsb'_toNat, Nat.shiftRight_eq_div_pow]
  omega

theorem lowByte_fieldNNN (w : Word) : (fieldNNN w).extractLsb' 0 8 = fieldKK w := by
  apply BitVec.eq_of_toNat_eq
  rw [BitVec.extractLsb'_toNat, Nat.shiftRight_zero, fieldNNN_toNat, fieldKK_toNat]
  omega

theorem fieldNNN_eq_ofNat (w : Word) : fieldNNN w = BitVec.ofNat 12 w.toNat :=
  BitVec.eq_of_toNat_eq ((fieldNNN_toNat w).trans (BitVec.toNat_ofNat w.toNat 12).symm)

theorem nibble_and (w m : Word) (k : Nat) :
    (w &&& m).toNat / 2 ^ k % 2 ^ 4 = (w.toNat / 2 ^ k % 2 ^ 4) &&& (m.toNat / 2 ^ k % 2 ^ 4) := by
  rw [BitVec.toNat_and, Nat.and_div_two_pow, Nat.and_mod_two_pow]

theorem nibble_and_kept {w m : Word} {k : Nat} (h : m.toNat / 2 ^ k % 2 ^ 4 = 2 ^ 4 - 1) :
    (w &&& m).toNat / 2 ^ k % 2 ^ 4 = w.toNat / 2 ^ k % 2 ^ 4 := by
  rw [nibble_and, h, Nat.and_two_pow_sub_one_eq_mod, Nat.mod_mod]

theorem nibble_and_cleared {w m : Word} {k : Nat} (h : m.toNat / 2 ^ k % 2 ^ 4 = 0) :
    (w &&& m).toNat / 2 ^ k % 2 ^ 4 = 0 := by
  rw [nibble_and, h, Nat.and_zero]

/-- Group 0x0 but `SYS`: bits 11:8 are ignored. -/
theorem and_0xF0FF_toNat (w : Word) : (w &&& 0xF0FF).toNat = w.toNat / 4096 * 4096 + w.toNat % 256 := by
  have htop := nibble_and_kept (w := w) (m := 0xF0FF) (k := 12) (by decide)
  have hx := nibble_and_cleared (w := w) (m := 0xF0FF) (k := 8) (by decide)
  have hy := nibble_and_kept (w := w) (m := 0xF0FF) (k := 4) (by decide)
  have hn := nibble_and_kept (w := w) (m := 0xF0FF) (k := 0) (by decide)
  omega

/-- Groups 0x5 and 0x9: bits 3:0 are ignored. -/
theorem and_0xFFF0_toNat (w : Word) : (w &&& 0xFFF0).toNat = w.toNat / 16 * 16 := by
  have htop := nibble_and_kept (w := w) (m := 0xFFF0) (k := 12) (by decide)
  have hx := nibble_and_kept (w := w) (m := 0xFFF0) (k := 8) (by decide)
  have hy := nibble_and_kept (w := w) (m := 0xFFF0) (k := 4) (by decide)
  have hn := nibble_and_cleared (w := w) (m := 0xFFF0) (k := 0) (by decide)
  omega

/-- The shifts: the Y field is ignored. -/
theorem and_0xFF0F_toNat (w : Word) : (w &&& 0xFF0F).toNat = w.toNat / 256 * 256 + w.toNat % 16 := by
  have htop := nibble_and_kept (w := w) (m := 0xFF0F) (k := 12) (by decide)
  have hx := nibble_and_kept (w := w) (m := 0xFF0F) (k := 8) (by decide)
  have hy := nibble_and_cleared (w := w) (m := 0xFF0F) (k := 4) (by decide)
  have hn := nibble_and_kept (w := w) (m := 0xFF0F) (k := 0) (by decide)
  omega

/-! ### Each format: when its word is the masked word, in fields (rule R92) -/

theorem formatA_eq_iff {w : Word} {top : Nat} {nnn : Address} (h : top < 16) :
    formatA top nnn = w &&& 0xFFFF ↔ (fieldTop w).toNat = top ∧ fieldNNN w = nnn := by
  have := nnn.isLt
  have := w.isLt
  rw [show w &&& 0xFFFF = w from BitVec.and_allOnes, ← BitVec.toNat_inj, ← BitVec.toNat_inj, formatA_toNat h,
    fieldTop_toNat, fieldNNN_toNat]
  omega

theorem formatI_eq_iff {w : Word} {top : Nat} {x : Reg} {kk : Byte} (h : top < 16) :
    formatI top x kk = w &&& 0xFFFF ↔ (fieldTop w).toNat = top ∧ fieldX w = x ∧ fieldKK w = kk := by
  have := kk.isLt
  have := w.isLt
  rw [show w &&& 0xFFFF = w from BitVec.and_allOnes, ← BitVec.toNat_inj, ← Fin.val_inj, ← BitVec.toNat_inj,
    formatI_toNat h, fieldTop_toNat, fieldX_val, fieldKK_toNat]
  omega

theorem formatR_eq_iff {w : Word} {top : Nat} {x y : Reg} {n : Nibble} (h : top < 16) :
    formatR top x y n = w &&& 0xFFFF ↔
      (fieldTop w).toNat = top ∧ fieldX w = x ∧ fieldY w = y ∧ fieldN w = n := by
  have := n.isLt
  have := w.isLt
  rw [show w &&& 0xFFFF = w from BitVec.and_allOnes, ← BitVec.toNat_inj, ← Fin.val_inj, ← Fin.val_inj,
    ← BitVec.toNat_inj, formatR_toNat h, fieldTop_toNat, fieldX_val, fieldY_val, fieldN_toNat]
  omega

/-- Format R with the low nibble ignored. -/
theorem formatR_eq_iff_of_ignoredN {w : Word} {top : Nat} {x y : Reg} (h : top < 16) :
    formatR top x y 0 = w &&& 0xFFF0 ↔ (fieldTop w).toNat = top ∧ fieldX w = x ∧ fieldY w = y := by
  have := w.isLt
  rw [← BitVec.toNat_inj, ← Fin.val_inj, ← Fin.val_inj, formatR_toNat h, and_0xFFF0_toNat, fieldTop_toNat, fieldX_val,
    fieldY_val, show (0 : Nibble).toNat = 0 from rfl]
  omega

/-- Format R with the Y field ignored. -/
theorem formatR_eq_iff_of_ignoredY {w : Word} {top : Nat} {x : Reg} {n : Nibble} (h : top < 16) :
    formatR top x 0 n = w &&& 0xFF0F ↔ (fieldTop w).toNat = top ∧ fieldX w = x ∧ fieldN w = n := by
  have := n.isLt
  have := w.isLt
  rw [← BitVec.toNat_inj, ← Fin.val_inj, ← BitVec.toNat_inj, formatR_toNat h, and_0xFF0F_toNat, fieldTop_toNat,
    fieldX_val, fieldN_toNat, Fin.val_zero]
  omega

theorem formatZ_eq_iff {w : Word} {kk : Nat} (h : kk < 256) :
    formatZ kk = w &&& 0xF0FF ↔ (fieldTop w).toNat = 0 ∧ fieldKK w = BitVec.ofNat 8 kk := by
  have := w.isLt
  rw [← BitVec.toNat_inj, formatZ_toNat h, and_0xF0FF_toNat, fieldTop_toNat, fieldKK_eq_iff, BitVec.toNat_ofNat]
  omega

/-- `SCD n`: the low byte is the key 0xC followed by n (rule R95). -/
theorem fieldKK_eq_scd_iff {w : Word} {n : Nibble} :
    fieldKK w = BitVec.ofNat 8 (0xC * 2 ^ 4 + n.toNat) ↔ (fieldKK w).extractLsb' 4 4 = 0xC#4 ∧ fieldN w = n := by
  have := n.isLt
  rw [fieldKK_eq_iff, ← BitVec.toNat_inj, ← BitVec.toNat_inj, highNibble_toNat, fieldN_toNat, fieldKK_toNat,
    BitVec.toNat_ofNat, BitVec.toNat_ofNat]
  omega

/-! ### The decoder answers an instruction that the word reads as -/

/-- The word `w` reads as `i`: `i` is an instruction, and its encoding is `w` with the bits `i` ignores cleared. -/
def ReadsAs (w : Word) (i : Instr) : Prop := i.wellFormed = true ∧ encode i = w &&& usedBits i

theorem wellFormed_sys_iff {w : Word} :
    (Instr.sys (fieldNNN w)).wellFormed = true ↔ definedInGroup0 (fieldKK w) = false := by
  rw [Instr.wellFormed, lowByte_fieldNNN, Bool.not_eq_true']

theorem definedInGroup0_eq_false {w : Word} (hscd : w.toNat / 16 % 16 ≠ 0xC)
    (hkk : w.toNat % 256 ∉ [0xE0, 0xEE, 0xFB, 0xFC, 0xFE, 0xFF]) : definedInGroup0 (fieldKK w) = false := by
  have hkey : (fieldKK w).extractLsb' 4 4 ≠ 0xC#4 := by
    rw [Ne, ← BitVec.toNat_inj, highNibble_toNat, fieldKK_toNat, BitVec.toNat_ofNat]
    omega
  simp only [List.mem_cons, List.not_mem_nil, or_false, not_or] at hkk
  simp [definedInGroup0, hkey, fieldKK_eq_iff, hkk]

/-- A low byte that matches no defined pattern of group 0x0 is one of the no-op space (rule R101). -/
theorem decodeGroup0_of_undefined {w : Word} (h : definedInGroup0 (fieldKK w) = false) :
    decodeGroup0 w = .sys (fieldNNN w) := by
  simp only [definedInGroup0, Bool.or_eq_false_iff, beq_eq_false_iff_ne, ne_eq] at h
  simp only [decodeGroup0, h, if_false]

theorem handlerOf_of_readsAs {w : Word} {i : Instr} : ReadsAs w i → handlerOf w = some i := by
  rintro ⟨hi, h⟩
  cases i with
  | sys nnn =>
    obtain ⟨ht, rfl⟩ := (formatA_eq_iff (by decide)).1 h
    simp only [handlerOf, ht, decodeGroup0_of_undefined (wellFormed_sys_iff.1 hi)]
  | scd n =>
    obtain ⟨ht, hkk⟩ := (formatZ_eq_iff (by omega)).1 h
    obtain ⟨hkey, rfl⟩ := fieldKK_eq_scd_iff.1 hkk
    simp only [handlerOf, ht, decodeGroup0, hkey, if_true]
  | cls | ret | scr | scl | low | high =>
    obtain ⟨ht, hkk⟩ := (formatZ_eq_iff (by decide)).1 h
    simp [handlerOf, ht, decodeGroup0, hkk]
  | jp nnn | call nnn | ldINnn nnn | jpINnn nnn =>
    obtain ⟨ht, rfl⟩ := (formatA_eq_iff (by decide)).1 h
    simp only [handlerOf, ht]
  | seVxKk x kk | sneVxKk x kk | ldVxKk x kk | addVxKk x kk | rndVxKk x kk =>
    obtain ⟨ht, rfl, rfl⟩ := (formatI_eq_iff (by decide)).1 h
    simp only [handlerOf, ht]
  | seVxVy x y | sneVxVy x y =>
    obtain ⟨ht, rfl, rfl⟩ := (formatR_eq_iff_of_ignoredN (by decide)).1 h
    simp only [handlerOf, ht]
  | drw x y n =>
    obtain ⟨ht, rfl, rfl, rfl⟩ := (formatR_eq_iff (by decide)).1 h
    simp only [handlerOf, ht]
  | ldVxVy x y | orVxVy x y | andVxVy x y | xorVxVy x y | addVxVy x y | subVxVy x y | subnVxVy x y =>
    obtain ⟨ht, rfl, rfl, hn⟩ := (formatR_eq_iff (by decide)).1 h
    simp [handlerOf, ht, decodeGroup8, hn]
  | shrVx x | shlVx x =>
    obtain ⟨ht, rfl, hn⟩ := (formatR_eq_iff_of_ignoredY (by decide)).1 h
    simp [handlerOf, ht, decodeGroup8, hn]
  | skpVx x | sknpVx x =>
    obtain ⟨ht, rfl, hkk⟩ := (formatI_eq_iff (by decide)).1 h
    simp [handlerOf, ht, decodeGroupE, hkk]
  | ldVxDt x | ldVxK x | ldDtVx x | ldStVx x | addIVx x | ldFVx x | ldHfVx x | ldBVx x | ldMemVx x | ldVxMem x
  | ldRVx x | ldVxR x =>
    obtain ⟨ht, rfl, hkk⟩ := (formatI_eq_iff (by decide)).1 h
    simp [handlerOf, ht, decodeGroupF, hkk]

/-! ### The word reads as what the decoder answers -/

theorem readsAs_decodeGroup0 {w : Word} (ht : (fieldTop w).toNat = 0) : ReadsAs w (decodeGroup0 w) := by
  unfold decodeGroup0
  split_ifs with hscd hcls hret hscr hscl hlow hhigh
  case pos => exact ⟨rfl, (formatZ_eq_iff (by omega)).2 ⟨ht, fieldKK_eq_scd_iff.2 ⟨hscd, rfl⟩⟩⟩
  case neg =>
    refine ⟨wellFormed_sys_iff.2 ?_, (formatA_eq_iff (by decide)).2 ⟨ht, rfl⟩⟩
    simp [definedInGroup0, hscd, hcls, hret, hscr, hscl, hlow, hhigh]
  all_goals exact ⟨rfl, (formatZ_eq_iff (by decide)).2 ⟨ht, ‹_›⟩⟩

theorem readsAs_of_decodeGroup8 {w : Word} {i : Instr} (ht : (fieldTop w).toNat = 8) (h : decodeGroup8 w = some i) :
    ReadsAs w i := by
  unfold decodeGroup8 at h
  generalize hn : (fieldN w).toNat = n at h
  split at h
  all_goals cases h
  -- the shifts, keys 0x6 and 0xE
  case h_7 | h_9 => exact ⟨rfl, (formatR_eq_iff_of_ignoredY (by decide)).2 ⟨ht, rfl, BitVec.eq_of_toNat_eq hn⟩⟩
  all_goals exact ⟨rfl, (formatR_eq_iff (by decide)).2 ⟨ht, rfl, rfl, BitVec.eq_of_toNat_eq hn⟩⟩

/-- One test of a chain of tests of the low byte, the shape of groups 0xE and 0xF. -/
theorem readsAs_of_keyed {w : Word} {i j : Instr} {kk : Byte} {rest : Option Instr} (hj : fieldKK w = kk → ReadsAs w j)
    (hrest : rest = some i → ReadsAs w i) : (if fieldKK w = kk then some j else rest) = some i → ReadsAs w i := by
  split
  case isTrue hkk =>
    rintro ⟨⟩
    exact hj hkk
  case isFalse => exact hrest

theorem readsAs_of_decodeGroupE {w : Word} {i : Instr} (ht : (fieldTop w).toNat = 0xE) :
    decodeGroupE w = some i → ReadsAs w i := by
  unfold decodeGroupE
  iterate 2 refine readsAs_of_keyed (fun hkk => ⟨rfl, (formatI_eq_iff (by decide)).2 ⟨ht, rfl, hkk⟩⟩) ?_
  exact nofun

theorem readsAs_of_decodeGroupF {w : Word} {i : Instr} (ht : (fieldTop w).toNat = 0xF) :
    decodeGroupF w = some i → ReadsAs w i := by
  unfold decodeGroupF
  iterate 12 refine readsAs_of_keyed (fun hkk => ⟨rfl, (formatI_eq_iff (by decide)).2 ⟨ht, rfl, hkk⟩⟩) ?_
  exact nofun

theorem readsAs_of_handlerOf {w : Word} {i : Instr} (h : handlerOf w = some i) : ReadsAs w i := by
  unfold handlerOf at h
  generalize ht : (fieldTop w).toNat = top at h
  split at h
  -- `h_1` to `h_16` are the top nibbles 0x0 to 0xF
  case h_1 =>
    cases h
    exact readsAs_decodeGroup0 ht
  case h_2 | h_3 | h_11 | h_12 =>
    cases h
    exact ⟨rfl, (formatA_eq_iff (by decide)).2 ⟨ht, rfl⟩⟩
  case h_4 | h_5 | h_7 | h_8 | h_13 =>
    cases h
    exact ⟨rfl, (formatI_eq_iff (by decide)).2 ⟨ht, rfl, rfl⟩⟩
  case h_6 | h_10 =>
    cases h
    exact ⟨rfl, (formatR_eq_iff_of_ignoredN (by decide)).2 ⟨ht, rfl, rfl⟩⟩
  case h_9 => exact readsAs_of_decodeGroup8 ht h
  case h_14 =>
    cases h
    exact ⟨rfl, (formatR_eq_iff (by decide)).2 ⟨ht, rfl, rfl, rfl⟩⟩
  case h_15 => exact readsAs_of_decodeGroupE ht h
  case h_16 =>
    have hlt := (fieldTop w).isLt
    have htop : (fieldTop w).toNat = 0xF := by grind
    exact readsAs_of_decodeGroupF htop h

/-! ### Decoding -/

theorem decode_eq_ok_iff {w : Word} {i : Instr} : decode w = .ok i ↔ ReadsAs w i := by
  have hdecode : decode w = .ok i ↔ handlerOf w = some i := by
    unfold decode
    cases handlerOf w <;> simp
  exact hdecode.trans ⟨readsAs_of_handlerOf, handlerOf_of_readsAs⟩

theorem decode_eq_error_iff {w op : Word} :
    decode w = .error (.unknownInstruction op) ↔ op = w ∧ handlerOf w = none := by
  unfold decode
  cases handlerOf w <;> simp [eq_comm]

theorem decodeGroup8_eq_none_iff {w : Word} :
    decodeGroup8 w = none ↔ w.toNat % 16 ∈ [8, 9, 0xA, 0xB, 0xC, 0xD, 0xF] := by
  unfold decodeGroup8
  rw [fieldN_toNat]
  have hlt : w.toNat % 16 < 16 := Nat.mod_lt _ (by decide)
  generalize w.toNat % 16 = n at hlt
  interval_cases n <;> simp

theorem keyed_eq_none_iff {w : Word} {kk : Byte} {j : Instr} {rest : Option Instr} :
    (if fieldKK w = kk then some j else rest) = none ↔ w.toNat % 256 ≠ kk.toNat ∧ rest = none := by
  rw [Ne, ← fieldKK_eq_iff]
  split <;> simp [*]

theorem decodeGroupE_eq_none_iff {w : Word} : decodeGroupE w = none ↔ w.toNat % 256 ∉ [0x9E, 0xA1] := by
  simp only [decodeGroupE, keyed_eq_none_iff, BitVec.reduceToNat, List.mem_cons, List.not_mem_nil, or_false, not_or,
    ne_eq, and_true]

theorem decodeGroupF_eq_none_iff {w : Word} : decodeGroupF w = none ↔
    w.toNat % 256 ∉ [0x07, 0x0A, 0x15, 0x18, 0x1E, 0x29, 0x30, 0x33, 0x55, 0x65, 0x75, 0x85] := by
  simp only [decodeGroupF, keyed_eq_none_iff, BitVec.reduceToNat, List.mem_cons, List.not_mem_nil, or_false, not_or,
    ne_eq, and_true]

/-- Only groups 0x8, 0xE and 0xF have words without a handler (rule R100). -/
theorem handlerOf_eq_none_iff {w : Word} : handlerOf w = none ↔
    ((fieldTop w).toNat = 0x8 ∧ decodeGroup8 w = none) ∨ ((fieldTop w).toNat = 0xE ∧ decodeGroupE w = none) ∨
      ((fieldTop w).toNat = 0xF ∧ decodeGroupF w = none) := by
  unfold handlerOf
  have hlt := (fieldTop w).isLt
  generalize (fieldTop w).toNat = top at hlt
  interval_cases top <;> simp

/-! ### An ignored field is emitted as 0 (rule R99) -/

theorem formatZ_and {kk : Nat} (h : kk < 256) : formatZ kk &&& 0xF0FF = formatZ kk := by
  apply BitVec.eq_of_toNat_eq
  rw [and_0xF0FF_toNat, formatZ_toNat h]
  omega

theorem formatR_and_ignoredN {top : Nat} (h : top < 16) (x y : Reg) :
    formatR top x y 0 &&& 0xFFF0 = formatR top x y 0 := by
  obtain ⟨htop, hx, hy, -⟩ := formatR_fields h x y 0
  exact ((formatR_eq_iff_of_ignoredN h).2 ⟨htop, hx, hy⟩).symm

theorem formatR_and_ignoredY {top : Nat} (h : top < 16) (x : Reg) (n : Nibble) :
    formatR top x 0 n &&& 0xFF0F = formatR top x 0 n := by
  obtain ⟨htop, hx, -, hn⟩ := formatR_fields h x 0 n
  exact ((formatR_eq_iff_of_ignoredY h).2 ⟨htop, hx, hn⟩).symm

theorem encode_and_usedBits (i : Instr) : encode i &&& usedBits i = encode i := by
  cases i with
  | scd n => exact formatZ_and (by omega)
  | cls | ret | scr | scl | low | high => exact formatZ_and (by decide)
  | seVxVy x y | sneVxVy x y => exact formatR_and_ignoredN (by decide) x y
  | shrVx x | shlVx x => exact formatR_and_ignoredY (by decide) x _
  | _ => exact BitVec.and_allOnes

/-! ### The obligations -/

/-- Settles O2: nothing of an encoding is cleared, since its ignored fields are 0. -/
theorem decodeUndoesEncode : Obligations.DecodeUndoesEncode := by
  intro i hi
  exact decode_eq_ok_iff.2 ⟨hi, (encode_and_usedBits i).symm⟩

/-- Settles O3: one half of what a word reads as. -/
theorem decodedInstructionsAreWellFormed : Obligations.DecodedInstructionsAreWellFormed := by
  intro w i h
  obtain ⟨hi, -⟩ := decode_eq_ok_iff.1 h
  exact hi

/-- Settles O4: a word that agrees with `w` on the used bits reads as the same instruction. -/
theorem ignoredBitsHaveNoEffect : Obligations.IgnoredBitsHaveNoEffect := by
  intro w i h
  obtain ⟨hi, hencode⟩ := decode_eq_ok_iff.1 h
  exact ⟨hencode, fun w' hw' => decode_eq_ok_iff.2 ⟨hi, hencode.trans hw'.symm⟩⟩

/-- Settles O5: the words without a handler, group by group, with the fields as numbers. -/
theorem illegalWordsAreExactlyThese : Obligations.IllegalWordsAreExactlyThese := by
  intro w
  refine ⟨?_, fun op h => (decode_eq_error_iff.1 h).1⟩
  rw [decode_eq_error_iff, handlerOf_eq_none_iff, decodeGroup8_eq_none_iff, decodeGroupE_eq_none_iff,
    decodeGroupF_eq_none_iff, fieldTop_toNat]
  exact and_iff_right rfl

/-- Settles O1: word by word. -/
theorem specWordsDecode : Obligations.SpecWordsDecode := by
  unfold Obligations.SpecWordsDecode
  decide

/-- Settles O46: the low byte of such a word matches no defined pattern, and the meaning of `SYS` is the state itself. -/
theorem sysIsNoOperation : Obligations.SysIsNoOperation := by
  refine ⟨fun w htop hscd hkk => ?_, fun _ _ => rfl⟩
  rw [← fieldTop_toNat] at htop
  rw [← fieldNNN_eq_ofNat]
  have hwf : (Instr.sys (fieldNNN w)).wellFormed = true := wellFormed_sys_iff.2 (definedInGroup0_eq_false hscd hkk)
  exact decode_eq_ok_iff.2 ⟨hwf, (formatA_eq_iff (by decide)).2 ⟨htop, rfl⟩⟩

end Sys2Proof.Proofs

/-! ## Execute and dispatch

The table of 40_execute_dispatch.md rule R120, row by row: an Execute or ExecuteInjected of a running core dispatches its
word, of a held or stopped core it has no transition, and a Tick or KeyPress that nobody awaits leaves the state alone. A
step is the row of its next event at the state whose boundary has begun it (`step_of_nextEventIs`). -/

namespace Sys2Proof.Proofs

open Sys2Proof.Machine Sys2Proof.Claims

/-! ### A running core -/

theorem executeInjected_of_running {s : State} (hr : s.run = .running) (w : Word) :
    executeInjected w s = dispatchWord w (s.endLaunch.setOperand w) := by
  simp only [executeInjected, hr]

/-- The word a decode error names is the word decoded, so the fault carries that word (rules R124, R281). -/
theorem dispatchWord_of_illegal {w op : Word} (hw : decode w = .error (.unknownInstruction op)) (s : State) :
    dispatchWord w s = .next (s.raise .unknownInstruction w) := by
  obtain ⟨rfl, -⟩ := decode_eq_error_iff.1 hw
  simp only [dispatchWord, hw]

theorem step_of_execute {s : State} (hr : s.run = .running) (hn : NextEventIs s .execute)
    (hpc : s.pc.toNat + 1 ≤ 0xFFF) : step s = dispatchWord (wordAtPc s) (foundAfterFetch s) :=
  (step_of_nextEventIs hn).trans (execute_of_fits hr hpc)

theorem step_of_executeInjected {s : State} {w : Word} (hr : s.run = .running)
    (hn : NextEventIs s (.executeInjected w)) : step s = dispatchWord w (foundAfterInjection s w) :=
  (step_of_nextEventIs hn).trans (executeInjected_of_running (s := { s with env := envAfter s }) hr w)

/-- Settles O6: the fetch answers the word at PC, and dispatch reports what its instruction answers. -/
theorem stepRunsTheDecodedInstruction : Obligations.StepRunsTheDecodedInstruction := by
  intro s i hr hn hpc hw
  exact reportedAs_step_of_execute hr hn hpc hw

/-- Settles O7: on both paths dispatch refuses the word at the state it finds. -/
theorem illegalWordRaisesUnknownInstruction : Obligations.IllegalWordRaisesUnknownInstruction := by
  refine ⟨fun s op hr hn hpc hw => ?_, fun s w op hr hn hw => ?_⟩
  · exact (step_of_execute hr hn hpc).trans (dispatchWord_of_illegal hw _)
  · exact (step_of_executeInjected hr hn).trans (dispatchWord_of_illegal hw _)

/-- Settles O9: the injected word goes to dispatch with PC as it stands. -/
theorem injectedWordRunsWithoutFetch : Obligations.InjectedWordRunsWithoutFetch := by
  intro s w i hr hn hw
  rw [step_of_executeInjected hr hn]
  exact reportedAs_dispatchWord hw (foundAfterInjection s w)

/-! ### A held or stopped core -/

/-- Outside Running the word offered makes no difference (rule R120). -/
theorem executeInjected_of_not_running {s : State} (hr : s.run ≠ .running) (w : Word) :
    executeInjected w s = execute s := by
  unfold executeInjected execute
  split
  case h_1 h => exact absurd h hr
  case h_2 => rfl
  case h_3 => rfl

theorem step_of_execute_not_running {s : State} {w : Word} (hr : s.run ≠ .running)
    (hn : NextEventIs s .execute ∨ NextEventIs s (.executeInjected w)) :
    step s = execute { s with env := envAfter s } := by
  obtain hn | hn := hn
  · exact step_of_nextEventIs hn
  · exact (step_of_nextEventIs hn).trans (executeInjected_of_not_running (s := { s with env := envAfter s }) hr w)

/-- Settles O10: the run state alone decides, before any word is looked at. -/
theorem heldOrStoppedCoreTakesNoExecute : Obligations.HeldOrStoppedCoreTakesNoExecute := by
  intro s w hn
  refine ⟨fun x hr => ?_, fun k a hr => ?_⟩
  · rw [step_of_execute_not_running (by simp [hr]) hn]
    simp only [execute, hr]
  · rw [step_of_execute_not_running (by simp [hr]) hn]
    simp only [execute, hr]

/-! ### Events nobody awaits -/

theorem tickEvent_of_not_running {s : State} (hr : s.run ≠ .running) : tickEvent s = s := by
  unfold tickEvent
  split
  case h_1 h => exact absurd h hr
  case h_2 => rfl
  case h_3 => rfl

theorem keyPressEvent_of_not_awaiting {s : State} (hr : ∀ x, s.run ≠ .awaitingKey x) (k : Fin 16) :
    keyPressEvent k s = s := by
  unfold keyPressEvent
  split
  case h_1 x h => exact absurd h (hr x)
  case h_2 => rfl
  case h_3 => rfl

/-- Settles O12: only the boundary moves, since each event is the identity outside the run state it is for. -/
theorem unawaitedEventsChangeNothing : Obligations.UnawaitedEventsChangeNothing := by
  refine ⟨fun s hr hn => ?_, fun s k hr hn => ?_⟩
  · rw [step_of_nextEventIs hn, runEvent, tickEvent_of_not_running]
    exact hr
  · rw [step_of_nextEventIs hn, runEvent, keyPressEvent_of_not_awaiting]
    exact hr

end Sys2Proof.Proofs

/-! ## Control flow

The rules of 41_control_flow.md: the jumps, the stack bytes a call writes and a return reads, and the four skips that
compare. The pushed word is read back byte by byte (`byteAt_push_low`, `byteAt_push_high`) and a return makes its PC of
those two bytes, so a return undoes its call. -/

namespace Sys2Proof.Proofs

open Sys2Proof.Machine Sys2Proof.Claims

/-! ### Jumps -/

theorem zextAddress_eq_ofNat (nnn : Address) : zextAddress nnn = BitVec.ofNat 16 nnn.toNat := by
  rw [← zextAddress_toNat, BitVec.ofNat_toNat, BitVec.setWidth_eq]

theorem add_zextAddress_eq_ofNat (a : Word) (nnn : Address) :
    a + zextAddress nnn = BitVec.ofNat 16 (a.toNat + nnn.toNat) := by
  rw [BitVec.ofNat_add, BitVec.ofNat_toNat, BitVec.setWidth_eq, zextAddress_eq_ofNat]

theorem exec_jp (nnn : Address) (s : State) : exec (.jp nnn) s = .next (s.setPc (zextAddress nnn)) := rfl

theorem exec_jpINnn (nnn : Address) (s : State) : exec (.jpINnn nnn) s = .next (s.setPc (s.i + zextAddress nnn)) := rfl

/-- Settles O20: the zero-extended address has the number the field has. -/
theorem jumpSetsPc : Obligations.JumpSetsPc := by
  intro nnn s
  rw [exec_jp, zextAddress_eq_ofNat]
  rfl

/-- Settles O21: a 16-bit sum is the sum of the numbers, reduced. -/
theorem indexedJumpAddsI : Obligations.IndexedJumpAddsI := by
  intro nnn s
  rw [exec_jpINnn, add_zextAddress_eq_ofNat]
  rfl

/-! ### The stack (rule R63) -/

section Push

variable {s : State} (hm : Memory.wf s.mem = true) (hsp : s.sp.toNat + 1 ≤ 0xFFF) (w : Word)

include hsp in
theorem push_sp_toNat : (s.push w).sp.toNat = s.sp.toNat + 2 := by
  change (s.sp + 2).toNat = s.sp.toNat + 2
  bv_omega

include hm hsp

theorem byteAt_push_low : (s.push w).byteAt s.sp.toNat = lowByte w :=
  read_writeAll_add hm (xs := [lowByte w, highByte w]) (Nat.succ_le_succ hsp) 0 Nat.zero_lt_two

theorem byteAt_push_high : (s.push w).byteAt (s.sp.toNat + 1) = highByte w :=
  read_writeAll_add hm (xs := [lowByte w, highByte w]) (Nat.succ_le_succ hsp) 1 Nat.one_lt_two

theorem byteAt_push_outside {a : Nat} (ha : a < s.sp.toNat ∨ s.sp.toNat + 2 ≤ a) :
    (s.push w).byteAt a = s.byteAt a :=
  read_writeAll_outside hm (xs := [lowByte w, highByte w]) (Nat.succ_le_succ hsp) ha

end Push

/-- Where both stack bytes lie in memory, a return takes PC from them and moves SP below them (rule R142). -/
theorem exec_ret_of_fits {s : State} (hlo : 2 ≤ s.sp.toNat) (hhi : s.sp.toNat ≤ 0x1000) :
    exec .ret s = .next { s with
      sp := s.sp - 2
      pc := wordOfBytes (s.byteAt (s.sp.toNat - 1)) (s.byteAt (s.sp.toNat - 2)) } :=
  exec_ret_of_popFault_none ((popFault_none_iff s.sp).2 ⟨hlo, hhi⟩)

/-- Settles O22: the call is a push followed by a jump. -/
theorem callPushesReturnAddress : Obligations.CallPushesReturnAddress := by
  intro nnn s hm hsp
  refine ⟨_, exec_call_of_fits hsp, zextAddress_toNat nnn, push_sp_toNat hsp s.pc, ?_, ?_, fun a ha => ?_, rfl⟩
  · exact (congrArg BitVec.toNat (byteAt_push_low hm hsp s.pc)).trans (lowByte_toNat s.pc)
  · exact (congrArg BitVec.toNat (byteAt_push_high hm hsp s.pc)).trans (highByte_toNat s.pc)
  · exact byteAt_push_outside hm hsp s.pc ha

/-- Settles O23: the two bytes and the lowered SP as numbers. -/
theorem returnPopsPc : Obligations.ReturnPopsPc := by
  intro s hlo hhi
  have hsp : s.sp - 2 = BitVec.ofNat 16 (s.sp.toNat - 2) := by bv_omega
  rw [exec_ret_of_fits hlo hhi, wordOfBytes_eq_ofNat, hsp]

/-- Settles O24: the return reads the two bytes of the pushed PC, and SP goes up and down by the same 2. -/
theorem returnUndoesCall : Obligations.ReturnUndoesCall := by
  intro nnn s t u hm hsp hcall husp hulow huhigh
  cases (exec_call_of_fits hsp).symm.trans hcall
  have hsp2 : u.sp.toNat = s.sp.toNat + 2 := (congrArg BitVec.toNat husp).trans (push_sp_toNat hsp s.pc)
  have hlow : u.byteAt (u.sp.toNat - 2) = lowByte s.pc := by
    rw [hsp2, Nat.add_sub_cancel]
    exact hulow.trans (byteAt_push_low hm hsp s.pc)
  have hhigh : u.byteAt (u.sp.toNat - 1) = highByte s.pc := by
    rw [hsp2]
    exact huhigh.trans (byteAt_push_high hm hsp s.pc)
  have hback : u.sp - 2 = s.sp := by bv_omega
  rw [exec_ret_of_fits (by omega) (by omega), hhigh, hlow, wordOfBytes_bytes, hback]

/-! ### Skips (rule R148) -/

theorem skipIf_of_iff {c : Bool} {p : Prop} [Decidable p] (s : State) (h : c = true ↔ p) :
    s.skipIf c = { s with pc := BitVec.ofNat 16 (s.pc.toNat + if p then 2 else 0) } := by
  have hpc : (if c then s.pc + 2 else s.pc) = BitVec.ofNat 16 (s.pc.toNat + if p then 2 else 0) := by
    by_cases hp : p
    · rw [if_pos (h.2 hp), if_pos hp, BitVec.ofNat_add, BitVec.ofNat_toNat, BitVec.setWidth_eq]
      rfl
    · rw [if_neg (mt h.1 hp), if_neg hp, Nat.add_zero, BitVec.ofNat_toNat, BitVec.setWidth_eq]
  rw [State.skipIf_eq, hpc]
  rfl

theorem skipIf_not_of_iff {c : Bool} {p : Prop} [Decidable p] (s : State) (h : c = true ↔ p) :
    s.skipIf (!c) = { s with pc := BitVec.ofNat 16 (s.pc.toNat + if p then 0 else 2) } := by
  rw [skipIf_of_iff (p := ¬p) s (by rw [Bool.not_eq_true', ← h, Bool.not_eq_true]), ite_not]

/-- Settles O25: the two skip on a byte comparison and on its negation. -/
theorem immediateSkips : Obligations.ImmediateSkips :=
  fun _ _ s => ⟨congrArg _ (skipIf_of_iff s beq_iff_eq), congrArg _ (skipIf_not_of_iff s beq_iff_eq)⟩

/-- Settles O26: as with an immediate, the second operand being a register's. -/
theorem registerSkips : Obligations.RegisterSkips :=
  fun _ _ s => ⟨congrArg _ (skipIf_of_iff s beq_iff_eq), congrArg _ (skipIf_not_of_iff s beq_iff_eq)⟩

end Sys2Proof.Proofs

/-! ## Arithmetic and logic

The rules of 42_alu.md. Every instruction of the group writes one register, or one register and then VF, so what each
leaves unchanged is one lemma per shape of write (`writesReg_setReg`, `writesRegAndFlag_setRegThenFlag`). What is left
of each instruction is its encoding, and that the byte and the flag it computes are the numbers its rule names. -/

namespace Sys2Proof.Proofs

open Sys2Proof.Machine Sys2Proof.Claims

/-! ### Encodings (rules R92, R96) -/

theorem wordIs_of_encode {w : Nat} {i : Instr} (hi : i.wellFormed = true) (hw : encode i = BitVec.ofNat 16 w) :
    WordIs w i := by
  unfold WordIs
  rw [← hw]
  exact decodeUndoesEncode i hi

/-- The words of group 0x8, written out, are format R. -/
theorem ofNat_group8 (x y : Reg) (n : Nibble) :
    BitVec.ofNat 16 (0x8000 + n.toNat + x.val * 0x100 + y.val * 0x10) = formatR 0x8 x y n :=
  congrArg (BitVec.ofNat 16) (by omega)

theorem wordIs_of_encode_group8 {x y : Reg} {n : Nibble} {i : Instr} (hi : i.wellFormed = true)
    (hw : encode i = formatR 0x8 x y n) : WordIs (0x8000 + n.toNat + x.val * 0x100 + y.val * 0x10) i :=
  wordIs_of_encode hi (hw.trans (ofNat_group8 x y n).symm)

/-- For a shift the word may hold any Y (rules R99, R168, R170). -/
theorem wordIs_of_encode_ignoringY {x y : Reg} {n : Nibble} {i : Instr} (hi : i.wellFormed = true)
    (hw : encode i = formatR 0x8 x 0 n) (hused : usedBits i = 0xFF0F) :
    WordIs (0x8000 + n.toNat + x.val * 0x100 + y.val * 0x10) i := by
  obtain ⟨htop, hx, -, hn⟩ := formatR_fields (top := 0x8) (by decide) x y n
  unfold WordIs
  rw [ofNat_group8, decode_eq_ok_iff, ReadsAs, hw, hused]
  exact ⟨hi, (formatR_eq_iff_of_ignoredY (by decide)).2 ⟨htop, hx, hn⟩⟩

/-! ### The two shapes of write -/

theorem writesReg_setReg (s : State) (x : Reg) {a b : Byte} (h : a = b) : WritesReg (.next (s.setReg x a)) s x b :=
  ⟨_, rfl, (s.setReg_reg_same x a).trans h, fun _ hr => s.setReg_reg_other a hr, rfl, fun _ => rfl⟩

theorem writesRegAndFlag_setRegThenFlag (s : State) (x : Reg) {a b f g : Byte} (hresult : a = b) (hflag : f = g) :
    WritesRegAndFlag (.next (s.setRegThenFlag x a f)) s x b g := by
  refine ⟨_, rfl, ?_, fun hx => ?_, fun r hrx hr => ?_, rfl, fun _ => rfl⟩
  · rw [State.setRegThenFlag_reg, if_pos rfl, hflag]
  · rw [State.setRegThenFlag_reg, if_neg hx, if_pos rfl, hresult]
  · rw [State.setRegThenFlag_reg, if_neg hr, if_neg hrx]

/-! ### Results as numbers -/

theorem eq_ofNat_of_toNat_eq {a : Byte} {k : Nat} (h : a.toNat = k) : a = BitVec.ofNat 8 k := by
  rw [← h, BitVec.ofNat_toNat, BitVec.setWidth_eq]

theorem sub_eq_ofInt (a b : Byte) : a - b = BitVec.ofInt 8 (a.toNat - b.toNat) := by
  apply BitVec.eq_of_toNat_eq
  rw [BitVec.toNat_sub, BitVec.toNat_ofInt]
  omega

theorem shiftLeft_one_eq_ofNat (a : Byte) : a <<< 1 = BitVec.ofNat 8 (a.toNat * 2) := by
  apply BitVec.eq_of_toNat_eq
  rw [BitVec.toNat_shiftLeft, BitVec.toNat_ofNat, Nat.shiftLeft_eq, pow_one]

/-! ### Flags as numbers -/

theorem flagOf_decide (p : Prop) [Decidable p] : flagOf (decide p) = if p then 1 else 0 := by
  simp only [flagOf, decide_eq_true_eq]

theorem flagOf_getLsbD (a : Byte) (k : Nat) : flagOf (a.getLsbD k) = BitVec.ofNat 8 (a.toNat / 2 ^ k % 2) := by
  rw [← Nat.toNat_testBit, BitVec.testBit_toNat]
  cases a.getLsbD k
  case false => rfl
  case true => rfl

theorem shiftedOutRight_eq_ofNat (a : Byte) : shiftedOutRight a = BitVec.ofNat 8 (a.toNat % 2) := by
  rw [shiftedOutRight, flagOf_getLsbD, pow_zero, Nat.div_one]

theorem shiftedOutLeft_eq_ofNat (a : Byte) : shiftedOutLeft a = BitVec.ofNat 8 (a.toNat / 128) := by
  have hbit : a.toNat / 2 ^ 7 % 2 = a.toNat / 128 := by omega
  rw [shiftedOutLeft, flagOf_getLsbD, hbit]

/-! ### The obligations -/

/-- Settles O29: the byte operations are the exact ones reduced, and each flag is its comparison of the old values. -/
theorem sumsAndDifferencesWithFlag : Obligations.SumsAndDifferencesWithFlag := by
  intro x y s
  refine ⟨wordIs_of_encode_group8 (n := 4) rfl rfl, wordIs_of_encode_group8 (n := 5) rfl rfl,
    wordIs_of_encode_group8 (n := 7) rfl rfl, ?add, ?sub, ?subn⟩
  case add => exact writesRegAndFlag_setRegThenFlag s x (BitVec.add_def _ _) (flagOf_decide _)
  case sub => exact writesRegAndFlag_setRegThenFlag s x (sub_eq_ofInt _ _) (flagOf_decide _)
  case subn => exact writesRegAndFlag_setRegThenFlag s x (sub_eq_ofInt _ _) (flagOf_decide _)

/-- Settles O28: each byte operation is the one on numbers, only the sum being reduced. -/
theorem plainRegisterResults : Obligations.PlainRegisterResults := by
  intro x y kk s
  refine ⟨wordIs_of_encode rfl rfl, wordIs_of_encode rfl rfl, wordIs_of_encode_group8 (n := 0) rfl rfl,
    wordIs_of_encode_group8 (n := 1) rfl rfl, wordIs_of_encode_group8 (n := 2) rfl rfl,
    wordIs_of_encode_group8 (n := 3) rfl rfl, ?ldImmediate, ?addImmediate, ?ld, ?or, ?and, ?xor⟩
  case ldImmediate => exact writesReg_setReg s x rfl
  case addImmediate => exact writesReg_setReg s x (BitVec.add_def _ _)
  case ld => exact writesReg_setReg s x rfl
  case or => exact writesReg_setReg s x (eq_ofNat_of_toNat_eq (BitVec.toNat_or _ _))
  case and => exact writesReg_setReg s x (eq_ofNat_of_toNat_eq (BitVec.toNat_and _ _))
  case xor => exact writesReg_setReg s x (eq_ofNat_of_toNat_eq (BitVec.toNat_xor _ _))

/-- Settles O30: a shift by one halves or doubles the number, and the lost bit is its lowest or highest. -/
theorem shiftsWithFlag : Obligations.ShiftsWithFlag := by
  intro x y s
  refine ⟨wordIs_of_encode_ignoringY (n := 0x6) rfl rfl rfl, wordIs_of_encode_ignoringY (n := 0xE) rfl rfl rfl,
    ?shr, ?shl⟩
  case shr =>
    have hhalf : (s.reg x >>> 1).toNat = (s.reg x).toNat / 2 := BitVec.toNat_ushiftRight _ 1
    exact writesRegAndFlag_setRegThenFlag s x (eq_ofNat_of_toNat_eq hhalf) (shiftedOutRight_eq_ofNat _)
  case shl => exact writesRegAndFlag_setRegThenFlag s x (shiftLeft_one_eq_ofNat _) (shiftedOutLeft_eq_ofNat _)

end Sys2Proof.Proofs

/-! ## The sprite blitter

The rules of 43_sprite_blitter.md. `DRW` is a loop over the sprite's pixels; its closed form needs one fact of them: no
two of them land at the same place (`pairwise_apart_drawnPixels`), since a sprite is no larger than the window. So each
pixel of the grid meets at most one pixel of the sprite, and the order of the loop makes no difference. -/

namespace Sys2Proof.Proofs

open Sys2Proof.Machine Sys2Proof.Claims

/-! ### Drawing pixels that land at different places (rules R184, R185) -/

/-- The two pixels land at different places. -/
def Apart (p q : SpritePixel) : Prop := ¬ (p.x = q.x ∧ p.y = q.y)

/-- A lit pixel of the list lands at (px, py). -/
def litAt (ps : List SpritePixel) (px py : Nat) : Bool := ps.any fun p => decide (px = p.x ∧ py = p.y) && p.lit

theorem litAt_eq_true_iff {ps : List SpritePixel} {px py : Nat} :
    litAt ps px py = true ↔ ∃ p ∈ ps, (px = p.x ∧ py = p.y) ∧ p.lit = true := by
  simp only [litAt, List.any_eq_true, Bool.and_eq_true, decide_eq_true_eq]

theorem litAt_cons (p : SpritePixel) (ps : List SpritePixel) (px py : Nat) :
    litAt (p :: ps) px py = ((decide (px = p.x ∧ py = p.y) && p.lit) || litAt ps px py) := rfl

theorem litAt_eq_false_of_apart {p : SpritePixel} {ps : List SpritePixel} (h : ∀ q ∈ ps, Apart p q) :
    litAt ps p.x p.y = false := by
  rw [← Bool.not_eq_true, litAt_eq_true_iff]
  rintro ⟨q, hq, hplace, -⟩
  exact h q hq hplace

/-- The grid after a loop over pixels that land apart: each place is met at most once. -/
theorem get_foldl_xorPixel {ps : List SpritePixel} (hps : ∀ p ∈ ps, p.x < 128 ∧ p.y < 64) (hapart : ps.Pairwise Apart)
    (acc : Grid × Bool) (px py : Nat) :
    Grid.get (ps.foldl xorPixel acc).1 px py = xor (Grid.get acc.1 px py) (litAt ps px py) := by
  induction ps generalizing acc with
  | nil => exact (Bool.xor_false _).symm
  | cons p ps ih =>
    obtain ⟨hp, hps⟩ := List.forall_mem_cons.1 hps
    obtain ⟨hfirst, hrest⟩ := List.pairwise_cons.1 hapart
    rw [List.foldl_cons, ih hps hrest, get_xorPixel acc p px py hp.1 hp.2, litAt_cons]
    by_cases hplace : px = p.x ∧ py = p.y
    · obtain ⟨rfl, rfl⟩ := hplace
      simp [litAt_eq_false_of_apart hfirst]
    · simp [hplace]

/-- The collision flag after such a loop: each lit pixel meets the grid as it was before the loop. -/
theorem snd_foldl_xorPixel_eq_true_iff {ps : List SpritePixel} (hps : ∀ p ∈ ps, p.x < 128 ∧ p.y < 64)
    (hapart : ps.Pairwise Apart) (acc : Grid × Bool) :
    (ps.foldl xorPixel acc).2 = true ↔ acc.2 = true ∨ ∃ p ∈ ps, p.lit = true ∧ Grid.get acc.1 p.x p.y = true := by
  induction ps generalizing acc with
  | nil => simp
  | cons p ps ih =>
    obtain ⟨hp, hps⟩ := List.forall_mem_cons.1 hps
    obtain ⟨hfirst, hrest⟩ := List.pairwise_cons.1 hapart
    have hsame : ∀ q ∈ ps, Grid.get (xorPixel acc p).1 q.x q.y = Grid.get acc.1 q.x q.y := fun q hq => by
      rw [get_xorPixel acc p q.x q.y hp.1 hp.2, if_neg fun h => hfirst q hq ⟨h.1.symm, h.2.symm⟩]
    have hflag : (xorPixel acc p).2 = true ↔ acc.2 = true ∨ p.lit = true ∧ Grid.get acc.1 p.x p.y = true := by
      simp only [xorPixel, Bool.or_eq_true, Bool.and_eq_true]
    rw [List.foldl_cons, ih hps hrest, hflag, or_assoc, List.exists_mem_cons_iff]
    refine or_congr_right (or_congr_right (exists_congr fun q => and_congr_right fun hq => ?_))
    rw [hsame q hq]

/-! ### Where a sprite's pixels land (rules R180 to R183) -/

theorem bigSprite_eq_true_iff {m : Mode} {n : Nibble} : bigSprite m n = true ↔ m = .extended ∧ n = 0 := by
  simp only [bigSprite, Bool.and_eq_true, beq_iff_eq]

theorem spriteRows_eq (s : State) (n : Nibble) : spriteRows s.mode n = rowsDrawn s n := by
  simp only [spriteRows, rowsDrawn, bigSprite_eq_true_iff]

theorem bytesPerRow_eq (s : State) (n : Nibble) : bytesPerRow s.mode n = rowBytes s n := by
  simp only [bytesPerRow, rowBytes, bigSprite_eq_true_iff]

theorem rowsDrawn_le_height (s : State) (n : Nibble) : rowsDrawn s n ≤ s.mode.height := by
  have hrows : rowsDrawn s n ≤ 16 := by
    unfold rowsDrawn
    split <;> omega
  have hheight : 32 ≤ s.mode.height := by cases s.mode <;> decide
  omega

theorem rowWidth_le_width (s : State) (n : Nibble) : 8 * rowBytes s n ≤ s.mode.width := by
  have hbytes : rowBytes s n ≤ 2 := by
    unfold rowBytes
    split <;> decide
  have hwidth : 64 ≤ s.mode.width := by cases s.mode <;> decide
  omega

/-- The loops over bytes and over the bits of a byte are one loop over columns. -/
theorem flatMap_bytes_eq_map_columns {α : Type} (f : Nat → Nat → α) (k : Nat) :
    ((List.range k).flatMap fun b => (List.range 8).map (f b)) =
      (List.range (8 * k)).map fun c => f (c / 8) (c % 8) := by
  induction k with
  | zero => rfl
  | succ k ih =>
    have hlast : (List.range 8).map (f k) = (List.range 8).map fun c => f ((8 * k + c) / 8) ((8 * k + c) % 8) := by
      refine List.map_congr_left fun c hc => ?_
      have hc := List.mem_range.1 hc
      congr 1 <;> omega
    rw [List.range_succ (n := k), List.flatMap_append, ih, List.flatMap_singleton, hlast, Nat.mul_succ, List.range_add,
      List.map_append, List.map_map]
    rfl

/-- The pixel in row `r` and column `c` of the sprite. -/
def spritePixelAt (s : State) (x y : Reg) (n : Nibble) (r c : Nat) : SpritePixel where
  x := ((s.reg x).toNat + c) % s.mode.width
  y := ((s.reg y).toNat + r) % s.mode.height
  lit := (s.byteAt (s.i.toNat + r * rowBytes s n + c / 8)).getLsbD (7 - c % 8)

theorem drawnPixels_eq (s : State) (x y : Reg) (n : Nibble) :
    s.drawnPixels x y n = (List.range (rowsDrawn s n)).flatMap fun r =>
      (List.range (8 * rowBytes s n)).map (spritePixelAt s x y n r) := by
  simp only [State.drawnPixels, spritePixels, spriteRows_eq, bytesPerRow_eq, flatMap_bytes_eq_map_columns,
    Nat.add_assoc, Nat.div_add_mod]
  simp only [← Nat.add_assoc]
  rfl

theorem mem_drawnPixels {s : State} {x y : Reg} {n : Nibble} {p : SpritePixel} :
    p ∈ s.drawnPixels x y n ↔
      ∃ r < rowsDrawn s n, ∃ c < 8 * rowBytes s n, spritePixelAt s x y n r c = p := by
  simp only [drawnPixels_eq, List.mem_flatMap, List.mem_map, List.mem_range]

theorem inWindow_of_mem_drawnPixels {s : State} {x y : Reg} {n : Nibble} {p : SpritePixel}
    (h : p ∈ s.drawnPixels x y n) : InWindow s p.x p.y :=
  mem_spritePixels_inWindow h

theorem stored_of_mem_drawnPixels (s : State) (x y : Reg) (n : Nibble) :
    ∀ p ∈ s.drawnPixels x y n, p.x < 128 ∧ p.y < 64 := fun _ h =>
  have hp := inWindow_of_mem_drawnPixels h
  ⟨hp.1.trans_le s.mode.width_le, hp.2.trans_le s.mode.height_le⟩

/-- Offsets below the modulus reach different places. -/
theorem add_mod_ne {w a c d : Nat} (hc : c < w) (hd : d < w) (h : c < d) : (a + c) % w ≠ (a + d) % w := fun heq =>
  h.ne (Nat.ModEq.eq_of_lt_of_lt (Nat.ModEq.add_left_cancel' a heq) hc hd)

theorem pairwise_apart_drawnPixels (s : State) (x y : Reg) (n : Nibble) : (s.drawnPixels x y n).Pairwise Apart := by
  have hwidth := rowWidth_le_width s n
  have hheight := rowsDrawn_le_height s n
  rw [drawnPixels_eq, List.pairwise_flatMap]
  constructor
  · intro r _
    refine List.pairwise_map.2 (List.pairwise_lt_range.imp_of_mem fun hc hd hlt hsame => ?_)
    rw [List.mem_range] at hc hd
    exact add_mod_ne (hc.trans_le hwidth) (hd.trans_le hwidth) hlt hsame.1
  · refine List.pairwise_lt_range.imp_of_mem fun hq hr hlt p hp p' hp' hsame => ?_
    rw [List.mem_range] at hq hr
    obtain ⟨c, -, rfl⟩ := List.mem_map.1 hp
    obtain ⟨d, -, rfl⟩ := List.mem_map.1 hp'
    exact add_mod_ne (hq.trans_le hheight) (hr.trans_le hheight) hlt hsame.2

/-! ### The wrapped sprite in closed form (rules R182, R187) -/

/-- A place is reached from `a` by exactly one offset below the modulus: its distance from `a`. -/
theorem eq_add_mod_iff {w a c p : Nat} (hc : c < w) (hp : p < w) :
    p = (a + c) % w ↔ c = (p + (w - a % w)) % w := by
  have hround : a + (w - a % w) = w * (a / w + 1) := by
    have hdiv := Nat.div_add_mod a w
    have hmod := Nat.mod_lt a (Nat.zero_lt_of_lt hc)
    rw [Nat.mul_succ]
    omega
  constructor
  · rintro rfl
    rw [Nat.mod_add_mod, Nat.add_right_comm, hround, Nat.mul_add_mod, Nat.mod_eq_of_lt hc]
  · rintro rfl
    rw [Nat.add_mod_mod, Nat.add_left_comm, hround, Nat.add_mul_mod_self_left, Nat.mod_eq_of_lt hp]

theorem litAt_drawnPixels {s : State} {px py : Nat} (h : InWindow s px py) (x y : Reg) (n : Nibble) :
    litAt (s.drawnPixels x y n) px py = spriteBit s x y n px py := by
  have hwidth := rowWidth_le_width s n
  have hheight := rowsDrawn_le_height s n
  rw [Bool.eq_iff_iff, litAt_eq_true_iff]
  simp only [spriteBit, Bool.and_eq_true, decide_eq_true_eq]
  constructor
  · rintro ⟨p, hp, ⟨hx, hy⟩, hlit⟩
    obtain ⟨r, hr, c, hc, rfl⟩ := mem_drawnPixels.1 hp
    rw [← (eq_add_mod_iff (hc.trans_le hwidth) h.1).1 hx, ← (eq_add_mod_iff (hr.trans_le hheight) h.2).1 hy]
    exact ⟨⟨hc, hr⟩, hlit⟩
  · rintro ⟨⟨hc, hr⟩, hlit⟩
    refine ⟨_, mem_drawnPixels.2 ⟨_, hr, _, hc, rfl⟩, ⟨?_, ?_⟩, hlit⟩
    · exact (eq_add_mod_iff (hc.trans_le hwidth) h.1).2 rfl
    · exact (eq_add_mod_iff (hr.trans_le hheight) h.2).2 rfl

/-! ### What one draw does -/

/-- A set bit of the wrapped sprite meets a pixel that is lit (rule R184). -/
def SpriteMeetsLit (s : State) (x y : Reg) (n : Nibble) : Prop :=
  ∃ px py, InWindow s px py ∧ spriteBit s x y n px py = true ∧ Grid.get s.fb px py = true

theorem exec_drw_of_fits {s : State} {n : Nibble} (h : SpriteFits s n) (x y : Reg) :
    exec (.drw x y n) s = .next (s.drawSprite x y n) := by
  refine congrArg _ (s.ifInMemory_of_fits _ ?_)
  rw [State.spriteBytes, spriteRows_eq, bytesPerRow_eq]
  obtain h | h := h
  · exact .inl (by rw [h, Nat.zero_mul])
  · omega

section Draw

variable (s : State) (x y : Reg) (n : Nibble)

theorem drawSprite_eq :
    s.drawSprite x y n = { s with
      v := (s.drawSprite x y n).v
      fb := (s.drawSprite x y n).fb
      env := { s.env with commits := s.env.commits + 1 } } := rfl

theorem reg_drawSprite_other {r : Reg} (hr : r ≠ VF) : (s.drawSprite x y n).reg r = s.reg r :=
  State.setReg_reg_other _ _ hr

theorem get_drawSprite_of_inWindow {px py : Nat} (h : InWindow s px py) :
    Grid.get (s.drawSprite x y n).fb px py = xor (Grid.get s.fb px py) (spriteBit s x y n px py) := by
  rw [← litAt_drawnPixels h]
  exact get_foldl_xorPixel (stored_of_mem_drawnPixels s x y n) (pairwise_apart_drawnPixels s x y n) (s.fb, false) px py

theorem get_drawSprite_of_not_inWindow {px py : Nat} (h : ¬ InWindow s px py) :
    Grid.get (s.drawSprite x y n).fb px py = Grid.get s.fb px py := by
  refine onlyWindowDiffers_draw s x y n px py ?_
  unfold InWindow at h
  omega

theorem snd_draw_eq_true_iff : (s.fb.draw (s.drawnPixels x y n)).2 = true ↔ SpriteMeetsLit s x y n := by
  rw [Grid.draw,
    snd_foldl_xorPixel_eq_true_iff (stored_of_mem_drawnPixels s x y n) (pairwise_apart_drawnPixels s x y n)]
  constructor
  · rintro (h | ⟨p, hp, hlit, hold⟩)
    · cases h
    · have hin := inWindow_of_mem_drawnPixels hp
      refine ⟨p.x, p.y, hin, ?_, hold⟩
      rw [← litAt_drawnPixels hin]
      exact litAt_eq_true_iff.2 ⟨p, hp, ⟨rfl, rfl⟩, hlit⟩
  · rintro ⟨px, py, hin, hbit, hold⟩
    rw [← litAt_drawnPixels hin] at hbit
    obtain ⟨p, hp, ⟨rfl, rfl⟩, hlit⟩ := litAt_eq_true_iff.1 hbit
    exact .inr ⟨p, hp, hlit, hold⟩

theorem reg_drawSprite_vf : (s.drawSprite x y n).reg VF = flagOf (s.fb.draw (s.drawnPixels x y n)).2 :=
  State.setReg_reg_same _ VF _

variable {s x y n}

theorem reg_drawSprite_vf_of_meetsLit (h : SpriteMeetsLit s x y n) : (s.drawSprite x y n).reg VF = 1 := by
  rw [reg_drawSprite_vf, (snd_draw_eq_true_iff s x y n).2 h]
  rfl

theorem reg_drawSprite_vf_of_not_meetsLit (h : ¬ SpriteMeetsLit s x y n) : (s.drawSprite x y n).reg VF = 0 := by
  rw [reg_drawSprite_vf, Bool.eq_false_iff.2 (mt (snd_draw_eq_true_iff s x y n).1 h)]
  rfl

end Draw

/-! ### Drawing twice (rule R190) -/

section DrawTwice

variable {s : State} {x y : Reg} {n : Nibble} (hx : x ≠ VF) (hy : y ≠ VF)

include hx hy

/-- A draw moves no sprite whose coordinates are not in VF, and changes no byte of it. -/
theorem spriteBit_drawSprite (px py : Nat) :
    spriteBit (s.drawSprite x y n) x y n px py = spriteBit s x y n px py := by
  simp only [spriteBit, reg_drawSprite_other s x y n hx, reg_drawSprite_other s x y n hy]
  rfl

theorem get_drawSprite_drawSprite (px py : Nat) :
    Grid.get ((s.drawSprite x y n).drawSprite x y n).fb px py = Grid.get s.fb px py := by
  by_cases hin : InWindow s px py
  · rw [get_drawSprite_of_inWindow (s.drawSprite x y n) x y n hin, spriteBit_drawSprite hx hy,
      get_drawSprite_of_inWindow s x y n hin, Bool.xor_assoc, Bool.xor_self, Bool.xor_false]
  · exact (get_drawSprite_of_not_inWindow (s.drawSprite x y n) x y n hin).trans
      (get_drawSprite_of_not_inWindow s x y n hin)

/-- Under a set bit the second draw finds the inverse of the old pixel. -/
theorem spriteMeetsLit_drawSprite_iff :
    SpriteMeetsLit (s.drawSprite x y n) x y n ↔
      ∃ px py, InWindow s px py ∧ spriteBit s x y n px py = true ∧ Grid.get s.fb px py = false := by
  refine exists_congr fun px => exists_congr fun py => and_congr_right fun hin => ?_
  rw [spriteBit_drawSprite hx hy]
  refine and_congr_right fun hbit => ?_
  rw [get_drawSprite_of_inWindow s x y n hin, hbit, Bool.xor_true, Bool.not_eq_true']

end DrawTwice

/-! ### The obligations -/

/-- Settles O47: the loop meets each pixel at most once, so it is the exclusive OR with the wrapped sprite. -/
theorem drawXorsTheWrappedSprite : Obligations.DrawXorsTheWrappedSprite := by
  intro x y n s hfits
  refine ⟨_, exec_drw_of_fits hfits x y, fun px py hin => get_drawSprite_of_inWindow s x y n hin,
    reg_drawSprite_vf_of_meetsLit, fun hdark => reg_drawSprite_vf_of_not_meetsLit ?_⟩
  rintro ⟨px, py, hin, hbit, hlit⟩
  exact Bool.eq_false_iff.1 (hdark px py hin hbit) hlit

/-- Settles O48: the grid, VF and the commit count are all that `drawSprite` writes. -/
theorem drawLeavesTheRest : Obligations.DrawLeavesTheRest := by
  intro x y n s hfits
  exact ⟨_, exec_drw_of_fits hfits x y, fun _ hr => reg_drawSprite_other s x y n hr,
    fun _ _ hout => get_drawSprite_of_not_inWindow s x y n hout, fun _ => rfl, drawSprite_eq s x y n⟩

/-- Settles O49: a sprite of no rows fits anywhere, and the loop over its pixels is empty. -/
theorem drawOfNoRowsOnlyClearsVf : Obligations.DrawOfNoRowsOnlyClearsVf := by
  intro x y s hmode
  have hrows : rowsDrawn s 0 = 0 := by simp [rowsDrawn, hmode]
  have hnone : s.drawnPixels x y 0 = [] := by rw [drawnPixels_eq, hrows]; rfl
  have hdraw : s.drawSprite x y 0 = (s.setReg VF 0).emitCommit := by rw [State.drawSprite, hnone]; rfl
  refine ⟨_, (exec_drw_of_fits (.inl hrows) x y).trans (congrArg _ hdraw), s.setReg_reg_same VF 0,
    fun _ hr => s.setReg_reg_other 0 hr, fun _ => rfl, rfl⟩

/-- Settles O50: the second draw finds the same sprite at the same place, and the pixels under its set bits inverted. -/
theorem doubleDrawRestoresTheGrid : Obligations.DoubleDrawRestoresTheGrid := by
  intro x y n s hfits hx hy
  have hmeets := spriteMeetsLit_drawSprite_iff (s := s) (n := n) hx hy
  have hfits' : SpriteFits (s.drawSprite x y n) n := hfits
  refine ⟨_, _, exec_drw_of_fits hfits x y, exec_drw_of_fits hfits' x y, get_drawSprite_drawSprite hx hy,
    fun hdark => reg_drawSprite_vf_of_meetsLit (hmeets.2 hdark), fun hlit => ?_⟩
  refine reg_drawSprite_vf_of_not_meetsLit (mt hmeets.1 ?_)
  rintro ⟨px, py, hin, hbit, hdark⟩
  exact Bool.eq_false_iff.1 hdark (hlit px py hin hbit)

end Sys2Proof.Proofs

/-! ## Keypad

The rules of 44_keypad.md: the two skips on the level of one key, as the skips of 41_control_flow.md are on a
comparison. -/

namespace Sys2Proof.Proofs

open Sys2Proof.Machine Sys2Proof.Claims

theorem keyIndex_val (b : Byte) : (keyIndex b).val = b.toNat % 16 := by
  show (b.extractLsb' 0 4).toNat = b.toNat % 16
  rw [BitVec.extractLsb'_toNat, Nat.shiftRight_zero]

theorem keyIsDown_keyIndex_iff (s : State) (b : Byte) :
    s.keyIsDown (keyIndex b) = true ↔ s.env.keyDown.getLsbD (b.toNat % 16) = true := by
  rw [State.keyIsDown, keyIndex_val]

/-- Settles O27: the two skip on the level of the selected key and on its negation. -/
theorem keypadSkips : Obligations.KeypadSkips := fun x s =>
  have hlevel := keyIsDown_keyIndex_iff s (s.reg x)
  ⟨congrArg _ (skipIf_of_iff s hlevel), congrArg _ (skipIf_not_of_iff s hlevel)⟩

end Sys2Proof.Proofs

/-! ## Timers, key wait and memory transfer

The rules of 45_misc_memory_transfer.md. The two stores write one block of bytes at I, so their bytes are read back by
the laws of a written block; the load from memory and the two RPL transfers are each a bank that `blockUpTo_get` gives
slot by slot. What is left is each word of group 0xF, and each value written to I as a number. -/

namespace Sys2Proof.Proofs

open Sys2Proof.Machine Sys2Proof.Claims

/-! ### Encodings (rules R92, R98) -/

/-- The words of group 0xF, written out, are format I. -/
theorem ofNat_groupF (x : Reg) (kk : Byte) :
    BitVec.ofNat 16 (0xF000 + kk.toNat + x.val * 0x100) = formatI 0xF x kk :=
  congrArg (BitVec.ofNat 16) (by omega)

theorem wordIs_of_encode_groupF {x : Reg} {kk : Byte} {i : Instr} (hi : i.wellFormed = true)
    (hw : encode i = formatI 0xF x kk) : WordIs (0xF000 + kk.toNat + x.val * 0x100) i :=
  wordIs_of_encode hi (hw.trans (ofNat_groupF x kk).symm)

/-! ### Storing from I upward (rules R64, R218, R219) -/

/-- Settles O35: the three digits are one block written at I. -/
theorem bcdStoresThreeDigits : Obligations.BcdStoresThreeDigits := by
  intro x s hm hi
  have hlen : s.i.toNat + (decimalDigits (s.reg x)).length ≤ 4096 := Nat.succ_le_succ hi
  have hdigit (k : Nat) (hk : k < 3) := read_writeAll_add hm hlen k hk
  refine ⟨_, exec_ldBVx_of_fits hi, ?hundreds, ?tens, ?units, fun _ => read_writeAll_outside hm hlen, rfl⟩
  case hundreds => exact (congrArg BitVec.toNat (hdigit 0 (by decide))).trans (digit_toNat (by omega))
  case tens => exact (congrArg BitVec.toNat (hdigit 1 (by decide))).trans (digit_toNat (by omega))
  case units => exact (congrArg BitVec.toNat (hdigit 2 (by decide))).trans (digit_toNat (by omega))

/-- Settles O36: the registers V0 to Vx are one block written at I. -/
theorem blockStore : Obligations.BlockStore := by
  intro x s hm hi
  have hlen := s.regsUpTo_length x
  have hexec := exec_ldMemVx_of_fits hi
  exact ⟨_, hexec, fun r => byteAt_of_ldMemVx hm hi hexec,
    fun a ha => read_writeAll_outside hm (by omega) (by omega), rfl⟩

/-! ### The key wait (rules R211, R212) -/

theorem keyPressEvent_of_awaiting {s : State} {x : Reg} (hr : s.run = .awaitingKey x) (k : Fin 16) :
    keyPressEvent k s = (s.setReg x (BitVec.ofNat 8 k.val)).setRun .running := by
  simp only [keyPressEvent, hr]

/-- Settles O14: the event writes one register and RUN, and a key index fits in a byte. -/
theorem keyPressCompletesTheWait : Obligations.KeyPressCompletesTheWait := by
  intro s x k hr hn
  have hstep := (step_of_nextEventIs hn).trans
    (congrArg Host.Outcome.next (keyPressEvent_of_awaiting (s := { s with env := envAfter s }) hr k))
  refine ⟨_, hstep, ?_, fun r => s.setReg_reg_other _, fun _ => rfl, rfl⟩
  calc _ = (BitVec.ofNat 8 k.val).toNat := congrArg BitVec.toNat (s.setReg_reg_same x _)
    _ = k.val := Nat.mod_eq_of_lt (by omega)

/-- Settles O32: the instruction is one write to RUN. -/
theorem keyWaitSuspends : Obligations.KeyWaitSuspends := fun _ _ => rfl

/-! ### Timers (rules R210, R213, R214) -/

/-- Settles O31: each of the three is one write of one register. -/
theorem timerTransfers : Obligations.TimerTransfers := by
  intro x s
  refine ⟨wordIs_of_encode_groupF (kk := 0x07) rfl rfl, wordIs_of_encode_groupF (kk := 0x15) rfl rfl,
    wordIs_of_encode_groupF (kk := 0x18) rfl rfl, ?readDelay, ?writeDelay, ?writeSound⟩
  case readDelay => exact writesReg_setReg s x rfl
  case writeDelay => rfl
  case writeSound => rfl

/-! ### The index register (rules R215 to R217) -/

theorem zextByte_eq_ofNat (b : Byte) : zextByte b = BitVec.ofNat 16 b.toNat := (BitVec.ofNat_toNat 16 b).symm

theorem add_zextByte_eq_ofNat (a : Word) (b : Byte) : a + zextByte b = BitVec.ofNat 16 (a.toNat + b.toNat) := by
  rw [BitVec.ofNat_add, BitVec.ofNat_toNat, BitVec.setWidth_eq, zextByte_eq_ofNat]

/-- Settles O33: a 16-bit sum is the sum of the numbers, reduced. -/
theorem addToIndex : Obligations.AddToIndex := fun x s =>
  congrArg (fun a => Host.Outcome.next (s.setI a)) (add_zextByte_eq_ofNat s.i (s.reg x))

theorem smallGlyph_eq_ofNat (b : Byte) : smallGlyph b = BitVec.ofNat 16 (b.toNat * 5) :=
  congrArg (BitVec.ofNat 16) (Nat.zero_add _)

theorem largeGlyph_eq_ofNat (b : Byte) : largeGlyph b = BitVec.ofNat 16 (b.toNat * 10) :=
  congrArg (BitVec.ofNat 16) (Nat.zero_add _)

/-- Settles O34: both font bases are 0, so the address is the product alone. -/
theorem glyphAddresses : Obligations.GlyphAddresses := by
  intro x s
  refine ⟨wordIs_of_encode_groupF (kk := 0x29) rfl rfl, wordIs_of_encode_groupF (kk := 0x30) rfl rfl, ?small,
    ?large⟩
  case small => exact congrArg (fun a => Host.Outcome.next (s.setI a)) (smallGlyph_eq_ofNat (s.reg x))
  case large => exact congrArg (fun a => Host.Outcome.next (s.setI a)) (largeGlyph_eq_ofNat (s.reg x))

/-! ### Loading a bank of registers (rules R220 to R223) -/

/-- Settles O37: within the memory bound the load is a bank of bytes from I. -/
theorem blockLoad : Obligations.BlockLoad := fun x s hi =>
  ⟨_, exec_ldVxMem_of_fits hi, blockUpTo_get x _ s.reg, rfl, fun _ => rfl⟩

/-- Settles O39: one bank goes to the RPL store, the other comes from it. -/
theorem rplTransfers : Obligations.RplTransfers := by
  intro x s
  refine ⟨wordIs_of_encode_groupF (kk := 0x75) rfl rfl, wordIs_of_encode_groupF (kk := 0x85) rfl rfl, ?store, ?load⟩
  case store => exact ⟨_, rfl, blockUpTo_get x s.reg s.rpl.get, fun _ => rfl, rfl⟩
  case load => exact ⟨_, rfl, blockUpTo_get x s.rpl.get s.reg, rfl, fun _ => rfl⟩

end Sys2Proof.Proofs

/-! ## Mode and screen control

The rules of 46_mode_screen.md. `CLS` and the three scrolls are each one rewrite of the active window, so what is left
of each is the pixel of its new row (rule R245); outside the window and elsewhere one lemma speaks for all four. The two
mode switches are `set_mode` of rule R249. -/

namespace Sys2Proof.Proofs

open Sys2Proof.Machine Sys2Proof.Claims

/-! ### Rewriting the active window (rules R34, R241 to R245) -/

/-- `i` answers a next state in which the pixel (x, y) of the active window is `pixel x y`, and nothing else has
changed. -/
def RewritesWindowTo (i : Instr) (s : State) (pixel : Nat → Nat → Bool) : Prop :=
  ∃ t, exec i s = .next t ∧ SameBytes s t ∧ t = { s with fb := t.fb } ∧
    (∀ x y, InWindow s x y → Grid.get t.fb x y = pixel x y) ∧
    (∀ x y, ¬ InWindow s x y → Grid.get t.fb x y = Grid.get s.fb x y)

theorem sameBytes_setFb (s : State) (g : Grid) : SameBytes s (s.setFb g) := fun _ => rfl

theorem rewritesWindowTo_of_exec {i : Instr} {s : State} {new : Nat → Row} {pixel : Nat → Nat → Bool}
    (hexec : exec i s = .next (s.setFb (s.fb.inWindow s.mode new)))
    (hpixel : ∀ x y, InWindow s x y → (new y).getLsbD x = pixel x y) : RewritesWindowTo i s pixel := by
  refine ⟨_, hexec, sameBytes_setFb s _, rfl, fun x y hin => ?inside, fun x y hout => ?outside⟩
  case inside =>
    calc Grid.get (s.fb.inWindow s.mode new) x y
        = (new y).getLsbD x := (Grid.get_inWindow s.mode s.fb new x y).trans (if_pos hin)
      _ = pixel x y := hpixel x y hin
  case outside => exact (Grid.get_inWindow s.mode s.fb new x y).trans (if_neg hout)

theorem rewritesWindowTo_cls (s : State) : RewritesWindowTo .cls s fun _ _ => false :=
  rewritesWindowTo_of_exec rfl fun _ _ _ => BitVec.getLsbD_zero

theorem rewritesWindowTo_scd (n : Nibble) (s : State) :
    RewritesWindowTo (.scd n) s fun x y => if y < n.toNat then false else Grid.get s.fb x (y - n.toNat) := by
  refine rewritesWindowTo_of_exec rfl fun x y _ => ?_
  by_cases hy : y < n.toNat
  · rw [if_pos hy, if_pos hy]
    exact BitVec.getLsbD_zero
  · rw [if_neg hy, if_neg hy, Grid.get_eq_row]

/-- A window column lies in the stored row, so the shift of the row reaches it (rule R32). -/
theorem rewritesWindowTo_scr (s : State) :
    RewritesWindowTo .scr s fun x y => if x < 4 then false else Grid.get s.fb (x - 4) y := by
  refine rewritesWindowTo_of_exec rfl fun x y hin => ?_
  have hx : x < 128 := hin.1.trans_le s.mode.width_le
  rw [Grid.get_eq_row, BitVec.getLsbD_shiftLeft]
  by_cases h4 : x < 4 <;> simp [Config.scrollDistance, h4, hx]

/-- The row is cut to the window before it is shifted, so no stored pixel enters from beyond the right edge. -/
theorem rewritesWindowTo_scl (s : State) :
    RewritesWindowTo .scl s fun x y => if x + 4 < s.mode.width then Grid.get s.fb (x + 4) y else false := by
  refine rewritesWindowTo_of_exec rfl fun x y _ => ?_
  rw [Grid.get_eq_row, BitVec.getLsbD_ushiftRight, BitVec.getLsbD_and, windowColumns_getLsbD, Nat.add_comm]
  by_cases h4 : x + 4 < s.mode.width <;> simp [Config.scrollDistance, h4]

/-- Settles O43: the new rows are dark, or those n rows above. -/
theorem clearAndScrollDown : Obligations.ClearAndScrollDown := fun n s =>
  ⟨rewritesWindowTo_cls s, rewritesWindowTo_scd n s⟩

/-- Settles O44: the new rows are the old ones shifted by 4 columns. -/
theorem sidewaysScrolls : Obligations.SidewaysScrolls := fun s => ⟨rewritesWindowTo_scr s, rewritesWindowTo_scl s⟩

/-! ### Switching the mode (rules R246, R247, R249) -/

theorem setDisplayMode_darkens (s : State) (m : Mode) :
    SameBytes s (s.setDisplayMode m) ∧
      s.setDisplayMode m = { s with mode := m, fb := (s.setDisplayMode m).fb } ∧
      ∀ x y, Grid.get (s.setDisplayMode m).fb x y = false :=
  ⟨fun _ => rfl, rfl, Grid.get_dark⟩

/-- Settles O45: both are `setDisplayMode`, each of its own mode. -/
theorem modeSwitchClearsTheGrid : Obligations.ModeSwitchClearsTheGrid := fun s =>
  ⟨⟨_, rfl, setDisplayMode_darkens s .normal⟩, ⟨_, rfl, setDisplayMode_darkens s .extended⟩⟩

end Sys2Proof.Proofs

/-! ## Timers

The rules of 47_timer_tick.md. The clamped decrement of rule R260 is subtraction of numbers, where 0 less 1 is 0; a tick
is that of both timers, and k ticks subtract k (rule R263). -/

namespace Sys2Proof.Proofs

open Sys2Proof.Machine Sys2Proof.Claims

/-! ### The clamped decrement (rule R260) -/

theorem countDown_eq_ofNat (t : Byte) : countDown t = BitVec.ofNat 8 (t.toNat - 1) := by
  unfold countDown
  split
  case isTrue h => rw [h]; rfl
  case isFalse h => bv_omega

theorem toNat_ofNat_sub (t : Byte) (n : Nat) : (BitVec.ofNat 8 (t.toNat - n)).toNat = t.toNat - n :=
  Nat.mod_eq_of_lt ((Nat.sub_le _ _).trans_lt t.isLt)

/-! ### A tick of a running core (rules R260, R263) -/

theorem tickEvent_of_running {s : State} (hr : s.run = .running) :
    tickEvent s = { s with dt := BitVec.ofNat 8 (s.dt.toNat - 1), st := BitVec.ofNat 8 (s.st.toNat - 1) } := by
  calc tickEvent s = (s.setDt (countDown s.dt)).setSt (countDown s.st) := by simp only [tickEvent, hr]
    _ = _ := by rw [countDown_eq_ofNat, countDown_eq_ofNat]; rfl

/-- Settles O11: the event is the clamped decrement of both timers. -/
theorem tickCountsDown : Obligations.TickCountsDown := fun s hr hn =>
  (step_of_nextEventIs hn).trans
    (congrArg Host.Outcome.next (tickEvent_of_running (s := { s with env := envAfter s }) hr))

/-- Settles O13, by induction on the number of ticks: the first is one step, and the rest run from a state that is
running too, with both timers already lowered and no output left to clear. -/
theorem timersStopAtZero : Obligations.TimersStopAtZero := by
  intro k
  induction k with
  | zero =>
    rintro s rest - hevents
    have hrest : rest = s.env.events := hevents.symm
    simp [run_zero, hrest]
  | succ k ih =>
    intro s rest hr hevents
    have hnext : NextEventIs s .tick := .inl (congrArg List.head? hevents)
    have htail : s.env.events.tail = List.replicate k .tick ++ rest := congrArg List.tail hevents
    rw [run_succ (tickCountsDown s hr hnext), ih _ rest ?running ?scheduled]
    case running => exact hr
    case scheduled => exact htail
    simp only [envAfter, toNat_ofNat_sub, Nat.sub_sub, Nat.add_comm 1 k, ite_self, Nat.add_one_ne_zero, if_false]

end Sys2Proof.Proofs

/-! ## Groups 0xA and 0xC

The rules of 48_groups_A_C.md: the address load writes I alone, and a drawn byte reaches its register through the mask
alone, so nothing is said of it but what the mask does (log 4). -/

namespace Sys2Proof.Proofs

open Sys2Proof.Machine Sys2Proof.Claims

theorem exec_ldINnn (nnn : Address) (s : State) : exec (.ldINnn nnn) s = .next (s.setI (zextAddress nnn)) := rfl

theorem exec_rndVxKk (x : Reg) (kk : Byte) (s : State) :
    exec (.rndVxKk x kk) s = .next (s.takeDraw.setReg x (s.nextDraw &&& kk)) := rfl

/-- Settles O41: the zero-extended address has the number the field has. -/
theorem loadIndexAddress : Obligations.LoadIndexAddress := by
  intro nnn s
  rw [exec_ldINnn, zextAddress_eq_ofNat]
  rfl

/-- Settles O42: one register write after the byte is counted, and a bit cleared in the mask is cleared in the AND. -/
theorem randomByteIsMasked : Obligations.RandomByteIsMasked := by
  intro x kk s
  have hx := s.takeDraw.setReg_reg_same x (s.nextDraw &&& kk)
  refine ⟨_, exec_rndVxKk x kk s, hx, fun b hb => ?_, fun r => s.takeDraw.setReg_reg_other _, fun _ => rfl, rfl⟩
  rw [hx, BitVec.getLsbD_and, hb, Bool.and_false]

end Sys2Proof.Proofs

/-! ## Exceptions

The rules of 60_exceptions.md. An access outside memory raises with nothing changed (`raisesAddress_ifInMemory`) and one
that fits leaves RUN alone (`run_of_not_accessesOutside`), which are the two directions of rule R282. A fault of a running
core is one `State.raise` at the state dispatch finds, so what the step has changed is what the path to dispatch writes
(rules R283, R284). -/

namespace Sys2Proof.Proofs

open Sys2Proof.Machine Sys2Proof.Claims

/-! ### Accesses outside memory raise (rule R282) -/

/-- The bound every guarded meaning tests: an access past it reports the first address outside memory (decision D3). -/
theorem raisesAddress_ifInMemory (s : State) {base : Word} {len : Nat} (done : State) (hlen : len ≠ 0)
    (h : 4096 < base.toNat + len) :
    RaisesAddress (.next (s.ifInMemory base len done)) s (if 0xFFF < base.toNat then base else 0x1000) := by
  rw [← firstOutside_eq, s.ifInMemory_of_outside done hlen h]
  rfl

/-- SP − 1 or else SP − 2 wraps to 0xFFFF (rule R142). -/
theorem popFault_of_lt {sp : Word} (h : sp.toNat < 2) : popFault sp = some 0xFFFF := by
  rw [popFault, if_pos h]
  split
  · exact congrArg some (by bv_omega)
  · exact congrArg some (by bv_omega)

/-- SP − 1 itself lies past the end (rule R142). -/
theorem popFault_of_gt {sp : Word} (h : 0x1000 < sp.toNat) : popFault sp = some (BitVec.ofNat 16 (sp.toNat - 1)) := by
  rw [popFault, if_pos (by omega)]
  exact congrArg some (by bv_omega)

/-- Where the sprite does not fit it has bytes, and they run past the end (rule R186). -/
theorem spriteBytes_of_not_fits {s : State} {n : Nibble} (h : ¬ SpriteFits s n) :
    s.spriteBytes n ≠ 0 ∧ 4096 < s.i.toNat + s.spriteBytes n := by
  rw [State.spriteBytes, spriteRows_eq, bytesPerRow_eq]
  obtain ⟨hrows, hend⟩ := not_or.mp h
  have hrow : rowBytes s n ≠ 0 := by
    unfold rowBytes
    split <;> decide
  have hpos := Nat.mul_ne_zero hrows hrow
  exact ⟨hpos, by omega⟩

/-! ### Nothing else faults -/

/-- An instruction whose access fits is done, and none of the six writes RUN. -/
theorem run_of_not_accessesOutside {i : Instr} {s t : State} (hi : AccessesMemory i) (hin : ¬ AccessesOutside i s)
    (h : exec i s = .next t) : t.run = s.run := by
  obtain ⟨nnn, rfl⟩ | rfl | ⟨x, y, n, rfl⟩ | ⟨x, rfl | rfl | rfl⟩ := hi
  · cases (exec_call_of_fits (Nat.not_lt.mp hin)).symm.trans h
    rfl
  · obtain ⟨hlo, hhi⟩ := not_or.mp hin
    cases (exec_ret_of_fits (Nat.not_lt.mp hlo) (Nat.not_lt.mp hhi)).symm.trans h
    rfl
  · cases (exec_drw_of_fits (not_not.mp hin) x y).symm.trans h
    rfl
  · cases (exec_ldBVx_of_fits (Nat.not_lt.mp hin)).symm.trans h
    rfl
  · cases (exec_ldMemVx_of_fits (Nat.not_lt.mp hin)).symm.trans h
    rfl
  · cases (exec_ldVxMem_of_fits (Nat.not_lt.mp hin)).symm.trans h
    rfl

/-- A running core faults in an instruction only by an access outside memory. -/
theorem accessesOutside_of_faulted {i : Instr} {s t : State} {k : FaultKind} {a : Word} (hr : s.run = .running)
    (h : exec i s = .next t) (hf : t.run = .faulted k a) : k = .addressOutOfRange ∧ AccessesOutside i s := by
  have hne : t.run ≠ s.run := fun heq => nomatch hf.symm.trans (heq.trans hr)
  obtain ⟨x, -, hx⟩ | ⟨⟨b, hb, -⟩, hi⟩ := (exec_effect h).changes_run hne
  · exact nomatch hx.symm.trans hf
  · cases hb.symm.trans hf
    exact ⟨rfl, by_contra fun hin => hne (run_of_not_accessesOutside hi hin h)⟩

/-- Settles O51: each guarded meaning past its bound, a `RET` with an unreadable stack byte, and the converse. -/
theorem addressFaultConditions : Obligations.AddressFaultConditions := by
  intro x y n nnn s
  refine ⟨fun h => ?call, fun h => ?retBelow, fun h => ?retAbove, fun h => ?drw, fun h => ?digits,
    fun h => ⟨?store, ?load⟩, fun i t k a => accessesOutside_of_faulted⟩
  case call => exact raisesAddress_ifInMemory s _ two_ne_zero (by omega)
  case retBelow => exact exec_ret_of_popFault (popFault_of_lt h)
  case retAbove => exact exec_ret_of_popFault (popFault_of_gt h)
  case drw =>
    obtain ⟨hlen, hend⟩ := spriteBytes_of_not_fits h
    exact raisesAddress_ifInMemory s _ hlen hend
  case digits => exact raisesAddress_ifInMemory s _ three_ne_zero (by omega)
  case store => exact raisesAddress_ifInMemory s _ x.val.succ_ne_zero (by omega)
  case load => exact raisesAddress_ifInMemory s _ x.val.succ_ne_zero (by omega)

/-! ### Faults are precise (rules R283, R284) -/

/-- `t` is `s` faulted by an Execute or ExecuteInjected: only PC and OPERAND, which the path to dispatch writes, RUN and
the launch phase may differ. -/
def FaultedPrecisely (s t : State) (k : FaultKind) (a : Word) : Prop :=
  t = { s.endLaunch with pc := t.pc, operand := t.operand, run := .faulted k a }

/-- An instruction that faults has done nothing else. -/
theorem Effect.eq_raise {s t : State} {i : Instr} {k : FaultKind} {a : Word} (he : Effect s i t)
    (hr : s.run = .running) (hf : t.run = .faulted k a) : t = s.raise k a := by
  cases he with
  | addressFault =>
    cases hf
    rfl
  | keyWait => exact nomatch hf
  | _ => exact nomatch hr.symm.trans hf

/-- Reporting the executed word neither causes nor undoes a fault, and a faulted core puts out no word (rule R294). -/
theorem reportExecuted_of_faulted {s : State} {w : Word} {k : FaultKind} {a : Word}
    (hf : (s.reportExecuted w).run = .faulted k a) : s.run = .faulted k a ∧ s.reportExecuted w = s := by
  have hrun : s.run = .faulted k a := by
    obtain h | h := s.reportExecuted_eq w
    · rwa [h] at hf
    · rwa [h] at hf
  exact ⟨hrun, by simp only [State.reportExecuted, hrun]⟩

theorem eq_raise_of_dispatchWord {s t : State} {w : Word} {k : FaultKind} {a : Word} (hr : s.run = .running)
    (h : dispatchWord w s = .next t) (hf : t.run = .faulted k a) : t = s.raise k a := by
  obtain ⟨i, -, hd⟩ | ⟨-, hd⟩ := dispatchWord_cases w s
  · obtain ⟨u, hu, rfl⟩ := onNext_next (hd.symm.trans h)
    obtain ⟨hrun, heq⟩ := reportExecuted_of_faulted hf
    rw [heq, (exec_effect hu).eq_raise hr hrun]
  · cases hd.symm.trans h
    cases hf
    rfl

theorem faultedPrecisely_execute {s t : State} {k : FaultKind} {a : Word} (hr : s.run = .running)
    (h : execute s = .next t) (hf : t.run = .faulted k a) : FaultedPrecisely s t k a := by
  obtain ⟨x, -, hx⟩ | ⟨_, _, -, hx⟩ | ⟨-, -, hx⟩ | ⟨w, -, -, hx⟩ := execute_cases s
  · cases hx.symm.trans h
  · cases hx.symm.trans h
  · cases hx.symm.trans h
    cases hf
    rfl
  · cases eq_raise_of_dispatchWord (s := s.fetched w) hr (hx.symm.trans h) hf
    rfl

theorem faultedPrecisely_executeInjected {s t : State} {w : Word} {k : FaultKind} {a : Word} (hr : s.run = .running)
    (h : executeInjected w s = .next t) (hf : t.run = .faulted k a) : FaultedPrecisely s t k a := by
  rw [executeInjected_of_running hr] at h
  cases eq_raise_of_dispatchWord (s := s.endLaunch.setOperand w) hr h hf
  rfl

theorem run_of_loadEvent {s t : State} {offset : Nat} {bs : List Byte} (h : loadEvent offset bs s = .next t) :
    t.run = s.run := by
  unfold loadEvent at h
  split at h
  · cases h
  · split at h
    · cases h
    · cases h
      rfl

/-- Of the events only Execute and ExecuteInjected make a running core fault. -/
theorem faultedPrecisely_runEvent {s t : State} {e : Event} {k : FaultKind} {a : Word} (hr : s.run = .running)
    (h : runEvent e s = .next t) (hf : t.run = .faulted k a) : FaultedPrecisely s t k a := by
  have hne : t.run ≠ .running := fun heq => nomatch heq.symm.trans hf
  cases e with
  | execute => exact faultedPrecisely_execute hr h hf
  | executeInjected w => exact faultedPrecisely_executeInjected hr h hf
  | reset =>
    cases h
    exact absurd rfl hne
  | load offset bs => exact absurd ((run_of_loadEvent h).trans hr) hne
  | tick =>
    cases h
    rw [tickEvent_of_running hr] at hne
    exact absurd hr hne
  | keyPress q =>
    cases h
    rw [keyPressEvent_of_not_awaiting (by simp [hr])] at hne
    exact absurd hr hne
  | keyLevels =>
    cases h
    exact absurd hr hne

/-- Settles O52: beginning the event and closing the launch phase make the boundary of `envAfterExecute`. -/
theorem faultsArePrecise : Obligations.FaultsArePrecise := by
  intro s t k a hr h hf
  exact faultedPrecisely_runEvent (s := s.beginEvent) hr h hf

/-! ### Outputs (rules R280, R295, R296) -/

theorem faultReport_of_faulted {s : State} {k : FaultKind} {a : Word} (h : s.run = .faulted k a) :
    s.faultReport = some (k.code, a) := by
  simp only [State.faultReport, h]

theorem firstOffendingAddress_of_addressFault {s : State} {a : Word} (h : s.run = .faulted .addressOutOfRange a) :
    s.firstOffendingAddress = some (firstOutside a) := by
  simp only [State.firstOffendingAddress, h]

theorem reports_nothing_of_not_faulted {s : State} (h : ∀ k a, s.run ≠ .faulted k a) :
    s.faultReport = none ∧ s.firstOffendingAddress = none := by
  cases hr : s.run with
  | faulted k a => exact absurd hr (h k a)
  | running | awaitingKey => simp only [State.faultReport, State.firstOffendingAddress, hr, and_self]

/-- Settles O59: the report per run state; `firstOutside` is never below 0x1000. -/
theorem outputsShowFaultAndSound : Obligations.OutputsShowFaultAndSound := by
  intro s w
  refine ⟨faultReport_of_faulted, fun hr => ⟨faultReport_of_faulted hr, firstOutside w,
    firstOffendingAddress_of_addressFault hr, ?outside, fun h => ?carried, fun h => ?first⟩,
    reports_nothing_of_not_faulted, rfl⟩
  case outside =>
    rw [firstOutside_toNat]
    omega
  case carried => rw [firstOutside_eq, if_pos h]
  case first => rw [firstOutside_eq, if_neg (Nat.not_lt.mpr h)]

end Sys2Proof.Proofs

/-! ## The Reset event

Rule R310 of 70_reset_and_hazards.md; what the reset state holds is `resetStateHoldsTheResetValues`. -/

namespace Sys2Proof.Proofs

open Sys2Proof.Machine Sys2Proof.Claims

/-- Settles O15: the event looks at no run state and keeps the boundary it finds but for the launch phase. -/
theorem resetEventRestoresResetState : Obligations.ResetEventRestoresResetState := fun _ hn => step_of_nextEventIs hn

end Sys2Proof.Proofs
